-- ==== Sys2Proof/Word.lean ====
section
/-!
DEFINITION. The widths of the values of the BC1 block codec (spec 30_encoding.md R67). Every integer of the
hardware is unsigned and bit 0 is the least significant bit (00_scope.md R8).
-/
namespace Sys2Proof

/-- One byte of a block buffer, one colour channel. -/
abbrev Byte := BitVec 8

/-- The 16-bit command header, format `H16` (30_encoding.md R61). -/
abbrev Header := BitVec 16

/-- A packed endpoint: red in bits [15:11], green in [10:5], blue in [4:0] (R67). -/
abbrev Packed565 := BitVec 16

/-- One binary32 colour component (R67, decision D4). -/
abbrev FloatWord := BitVec 32

/-- A float colour port: component i at bits [32i+31:32i], red, green, blue (10_state.md R21). -/
abbrev Colour := BitVec 96

/-- Sixteen 2-bit lanes: index p at bits [2p+1:2p] (20_memory.md R43). -/
abbrev IndexWord := BitVec 32

/-- An 8-byte buffer: the byte at offset k is bits [8k+7:8k] (10_state.md R21, R22; 20_memory.md R44). -/
abbrev Block := BitVec 64

/-- Sixteen palette indices, one per pixel, pixel p = y*4 + x (00_scope.md R15). A lane is two bits wide, so a
value outside 0 to 3 cannot be presented (93_implementation_defined.md U1). -/
abbrev IndexArray := Fin 16 → BitVec 2

end Sys2Proof
end

