-- ==== Sys2Proof/Syntax.lean ====
section
/-!
DEFINITION. The nine operations of spec/opcode_table.json (30_encoding.md R62). Each constructor carries the three
header fields besides `op` and `rsvd` (R61), those its operation ignores too, so that no bit of a header is dropped.
`len` is a count of bytes and `sinkCh` a count of channels: naturals, bounded by `WellFormed`.
-/
namespace Sys2Proof

inductive Instr where
  | pack565   (isBc1 : Bool) (len sinkCh : Nat)
  | unpack565 (isBc1 : Bool) (len sinkCh : Nat)
  | idxpack   (isBc1 : Bool) (len sinkCh : Nat)
  | idxunpack (isBc1 : Bool) (len sinkCh : Nat)
  | wrblk     (isBc1 : Bool) (len sinkCh : Nat)
  | write3    (isBc1 : Bool) (len sinkCh : Nat)
  | write4    (isBc1 : Bool) (len sinkCh : Nat)
  | palette   (isBc1 : Bool) (len sinkCh : Nat)
  | decomp    (isBc1 : Bool) (len sinkCh : Nat)
  deriving DecidableEq, Repr

/-- The header field `is_bc1`: BC1 semantics, as against BC2/BC3 semantics (R61). -/
def Instr.isBc1 : Instr → Bool
  | .pack565 b _ _ | .unpack565 b _ _ | .idxpack b _ _ | .idxunpack b _ _ | .wrblk b _ _
  | .write3 b _ _ | .write4 b _ _ | .palette b _ _ | .decomp b _ _ => b

/-- The header field `len`: the number of bytes the host presents on `BLK` (R61, R72). -/
def Instr.len : Instr → Nat
  | .pack565 _ l _ | .unpack565 _ l _ | .idxpack _ l _ | .idxunpack _ l _ | .wrblk _ l _
  | .write3 _ l _ | .write4 _ l _ | .palette _ l _ | .decomp _ l _ => l

/-- The header field `sink_ch`: the sink's channel count (R61, R73). -/
def Instr.sinkCh : Instr → Nat
  | .pack565 _ _ c | .unpack565 _ _ c | .idxpack _ _ c | .idxunpack _ _ c | .wrblk _ _ c
  | .write3 _ _ c | .write4 _ _ c | .palette _ _ c | .decomp _ _ c => c

end Sys2Proof
end

