-- ==== Sys2Proof/WellFormed.lean ====
section
/-!
DEFINITION. Which instruction terms a header can carry: both counts fit their 4-bit fields (spec 00_scope.md R7
`LEN_BITS`, `SINKCH_BITS`; a host whose count is larger presents 15, 30_encoding.md R72, R73).
-/
namespace Sys2Proof

/-- `len` fits header bits [11:8] (R61). -/
def Instr.lenFits (i : Instr) : Bool := decide (i.len ≤ 15)

/-- `sink_ch` fits header bits [15:12] (R61). -/
def Instr.sinkChFits (i : Instr) : Bool := decide (i.sinkCh ≤ 15)

def Instr.wellFormed (i : Instr) : Bool := i.lenFits && i.sinkChFits

end Sys2Proof
end

