-- ==== Sys2Proof/Decode.lean ====
section
/-!
DEFINITION. The command header `H16`: its fields, the decoder (total, rejecting by name), the encoder and the
operation table (spec 30_encoding.md R61 to R66, R71).
-/
namespace Sys2Proof

/-- Header bits [3:0], the operation code (R61). -/
def headerOp (h : Header) : BitVec 4 := h.extractLsb' 0 4

/-- Header bit [4] (R61). -/
def headerIsBc1 (h : Header) : Bool := h.getLsbD 4

/-- Header bits [7:5], reserved, must be 0 (R61, R65). -/
def headerRsvd (h : Header) : BitVec 3 := h.extractLsb' 5 3

/-- Header bits [11:8] (R61, R72). -/
def headerLen (h : Header) : Nat := (h.extractLsb' 8 4).toNat

/-- Header bits [15:12] (R61, R73). -/
def headerSinkCh (h : Header) : Nat := (h.extractLsb' 12 4).toNat

/-- Why a header selects no operation; both are cause `ILLEGAL_CMD` (60_exceptions.md R181). -/
inductive DecodeError where
  /-- `op` is 0x0 or 0xA to 0xF (30_encoding.md R64). -/
  | reservedOp
  /-- Header bits [7:5] are not zero (30_encoding.md R65). -/
  | rsvdNotZero
  deriving DecidableEq, Repr

/-- What the decoder answers: an instruction, or the name of the reason there is none. -/
inductive Decoded where
  | instr (i : Instr)
  | illegal (e : DecodeError)
  deriving DecidableEq, Repr

/-- Step (2) and the row selection of step (3) of the decoding procedure (R71). Total on 16-bit headers. -/
def decode (h : Header) : Decoded :=
  if headerRsvd h ≠ 0 then .illegal .rsvdNotZero
  else
    match (headerOp h).toNat with
    | 1 => .instr (.pack565 (headerIsBc1 h) (headerLen h) (headerSinkCh h))
    | 2 => .instr (.unpack565 (headerIsBc1 h) (headerLen h) (headerSinkCh h))
    | 3 => .instr (.idxpack (headerIsBc1 h) (headerLen h) (headerSinkCh h))
    | 4 => .instr (.idxunpack (headerIsBc1 h) (headerLen h) (headerSinkCh h))
    | 5 => .instr (.wrblk (headerIsBc1 h) (headerLen h) (headerSinkCh h))
    | 6 => .instr (.write3 (headerIsBc1 h) (headerLen h) (headerSinkCh h))
    | 7 => .instr (.write4 (headerIsBc1 h) (headerLen h) (headerSinkCh h))
    | 8 => .instr (.palette (headerIsBc1 h) (headerLen h) (headerSinkCh h))
    | 9 => .instr (.decomp (headerIsBc1 h) (headerLen h) (headerSinkCh h))
    | _ => .illegal .reservedOp

/-- The operation code of each row (R62). -/
def opCode : Instr → BitVec 4
  | .pack565 _ _ _ => 0x1
  | .unpack565 _ _ _ => 0x2
  | .idxpack _ _ _ => 0x3
  | .idxunpack _ _ _ => 0x4
  | .wrblk _ _ _ => 0x5
  | .write3 _ _ _ => 0x6
  | .write4 _ _ _ => 0x7
  | .palette _ _ _ => 0x8
  | .decomp _ _ _ => 0x9

/-- The header of a well-formed instruction: `sink_ch ++ len ++ rsvd ++ is_bc1 ++ op`, high bits first (R61). -/
def encode (i : Instr) : Header :=
  BitVec.ofNat 4 i.sinkCh ++ BitVec.ofNat 4 i.len ++ 0#3 ++ BitVec.ofBool i.isBc1 ++ opCode i

/-- The mnemonic of each row (R62, spec/opcode_table.json). -/
def mnemonic : Instr → String
  | .pack565 _ _ _ => "PACK565"
  | .unpack565 _ _ _ => "UNPACK565"
  | .idxpack _ _ _ => "IDXPACK"
  | .idxunpack _ _ _ => "IDXUNPACK"
  | .wrblk _ _ _ => "WRBLK"
  | .write3 _ _ _ => "WRITE3"
  | .write4 _ _ _ => "WRITE4"
  | .palette _ _ _ => "PALETTE"
  | .decomp _ _ _ => "DECOMP"

/-- One row of the operation table: a header `h` selects it when `h & mask == match` (R62). -/
structure OpcodeRow where
  mnemonic : String
  pattern : Header
  mask : Header
  deriving DecidableEq, Repr

def OpcodeRow.selects (r : OpcodeRow) (h : Header) : Bool := (h &&& r.mask) == r.pattern

/-- The table of R62 as the spec writes it: nine rows, `match` and `mask` over the header. -/
def opcodeTable : List OpcodeRow :=
  [⟨"PACK565", 0x0001, 0x00EF⟩, ⟨"UNPACK565", 0x0002, 0x00EF⟩, ⟨"IDXPACK", 0x0003, 0x00EF⟩,
   ⟨"IDXUNPACK", 0x0004, 0x00EF⟩, ⟨"WRBLK", 0x0005, 0x00EF⟩, ⟨"WRITE3", 0x0006, 0x00EF⟩,
   ⟨"WRITE4", 0x0007, 0x00EF⟩, ⟨"PALETTE", 0x0008, 0x00EF⟩, ⟨"DECOMP", 0x0009, 0x00EF⟩]

/-- The header whose bits are the low `nbits` bits of `w`, bit 0 the least significant, every bit above zero. A
header is one 16-bit word on a port (R60), so it has no byte order in memory. -/
def headerOfTableWord (nbits w : Nat) : Header := BitVec.ofNat 16 (w % 2 ^ nbits)

/-- What the decoder reads from a table word. -/
def decodeTableWord (nbits w : Nat) : Option Instr :=
  match decode (headerOfTableWord nbits w) with
  | .instr i => some i
  | .illegal _ => none

end Sys2Proof
end

