-- ==== Sys2Proof/Config.lean ====
section
/-!
DEFINITION. What an implementation fixes (spec 00_scope.md R7) and the values the spec leaves free.
-/
namespace Sys2Proof.Config

/-- `SCALE_R` and `SCALE_B`, which are also `FIELD_MAX_R` and `FIELD_MAX_B` (R7, decision D5). -/
abbrev scaleRB : Nat := 31

/-- `SCALE_G`, which is also `FIELD_MAX_G` (R7, decision D5). -/
abbrev scaleG : Nat := 63

/-- `NAN_RESULT` (R7, decision D7). -/
abbrev nanResult : Nat := 0

/-- The slice length `UNPACK565` requires (30_encoding.md R72). -/
abbrev unpackLen : Nat := 2

/-- The slice length `DECOMP` requires: `BLOCK_BYTES` (R7, R72). -/
abbrev blockBytes : Nat := 8

/-- `MIN_SINK_CHANNELS` (R7, 30_encoding.md R73). -/
abbrev minSinkChannels : Nat := 4

/-- `LATENCY`, the one OPEN parameter (R7, decision D21): no rule and no definition of this model reads it. DESIGN
CHOICE, safe: log entry 8. -/
opaque latency : Nat

/-- FREE VALUE: how many of the sink writes a transaction was issuing had been issued when reset abandoned it
(70_reset_and_hazards.md R211: "which prefix is unspecified"; 93_implementation_defined.md U10). It is applied to
`State.freeCount`, so that each abandoned transaction takes a fresh value; a number above the length means all of
them. Safe: log entry 4. -/
opaque resetPrefixLength : Nat → Nat

end Sys2Proof.Config
end

