-- ==== Sys2Proof/Machine/State.lean ====
section
/-!
DEFINITION. The state of one core: the status register FSR, the operand ports of the current transaction, the
result ports of the last response, and the model's own record of what the host does next and of the sink writes
that were issued (spec 10_state.md, INVENTORY.md "State").
-/
namespace Sys2Proof.Machine

/-- Why the machine stops with a fault: never. The spec's one exception, `ContractFault`, is TAKEN (60_exceptions.md
R185), and "There is no hang and no stuck state other than the latched fault" (70_reset_and_hazards.md R217), so
nothing raises a stop and the type has no constructor: neither safe nor unsafe, there is no difference. -/
inductive Fault where
  deriving DecidableEq, Repr

/-- Why the model has no meaning for a step. -/
inductive Refusal where
  /-- Raised by an arm of `exec` that has no meaning yet; no arm of this model raises it. Safe: the model stops where
  the hardware goes on. -/
  | notModelled (mnemonic : String)
  deriving DecidableEq, Repr

/-- The three outcomes of a step of this machine. -/
abbrev Out (σ : Type) := Host.Outcome σ Fault Refusal

/-- `FSR.CAUSE` (60_exceptions.md R180); all four 2-bit codes are used. -/
inductive Cause where
  | noFault
  | illegalCmd
  | badLength
  | sinkChannels
  deriving DecidableEq, Repr

/-- `ST` in a response (30_encoding.md R68); code 3 is never driven. -/
inductive Status where
  | ok
  | fault
  | refused
  deriving DecidableEq, Repr

/-- FSR, the only storage (10_state.md R24). Bits [15:3] are hardwired zero and stored nowhere. -/
structure Fsr where
  f : Bool
  cause : Cause
  hdr : Header
  deriving DecidableEq, Repr

/-- The operand ports besides `HDR` (10_state.md R21). -/
structure Operands where
  ca : Colour
  cb : Colour
  ea : Packed565
  eb : Packed565
  idx : IndexWord
  blk : Block
  deriving DecidableEq, Repr

/-- A command: the header together with the operand ports (30_encoding.md R60). -/
structure Command where
  hdr : Header
  ops : Operands
  deriving DecidableEq, Repr

/-- One write to the pixel sink: column, row, channel, value (30_encoding.md R67). -/
structure SinkWrite where
  x : BitVec 2
  y : BitVec 2
  ch : BitVec 2
  v : Byte
  deriving DecidableEq, Repr

/-- The result ports (10_state.md R22): a port that is not driven carries no value and is absent. -/
structure Response where
  st : Option Status := none
  q : Option Packed565 := none
  rgba : Option (BitVec 32) := none
  oidx : Option IndexWord := none
  oblk : Option Block := none
  pal : Option (BitVec 128) := none
  pix : Option (BitVec 512) := none
  sink : Option (List SinkWrite) := none
  deriving DecidableEq, Repr

/-- What the host does to the core. -/
inductive HostEvent where
  /-- The host presents a command and takes its response (30_encoding.md R60). -/
  | command (c : Command)
  /-- The host presents a header with `BLK` carrying the `OBLK` just delivered, every other operand port as it
  stands: the second half of a pseudo-operation (30_encoding.md R70). -/
  | feedBlk (hdr : Header)
  /-- The host asserts reset between transactions (70_reset_and_hazards.md R210). -/
  | reset
  /-- The host presents a command and asserts reset before its response (70_reset_and_hazards.md R211). -/
  | resetDuring (c : Command)
  deriving DecidableEq, Repr

structure State where
  /-- The status register. -/
  fsr : Fsr
  /-- The operand ports as sampled for the latest transaction (10_state.md R21). -/
  cmd : Command
  /-- The result ports as the latest response drove them (10_state.md R22). -/
  rsp : Response
  /-- MODEL'S OWN: what the host does next, first entry first (DESIGN CHOICE, log entry 2). -/
  host : List HostEvent
  /-- MODEL'S OWN: every sink write issued so far, oldest first (DESIGN CHOICE, log entry 3). -/
  sunk : List SinkWrite
  /-- MODEL'S OWN: how many free values were taken (DESIGN CHOICE, log entry 4). -/
  freeCount : Nat
  deriving DecidableEq, Repr

/-- FSR after reset (10_state.md R28). -/
def Fsr.cleared : Fsr := { f := false, cause := .noFault, hdr := 0 }

/-- The operand ports before the host first drives them. DESIGN CHOICE, unsafe: log entry 1. -/
def Command.undriven : Command :=
  { hdr := 0, ops := { ca := 0, cb := 0, ea := 0, eb := 0, idx := 0, blk := 0 } }

/-- Right after reset: FSR is zero and no result port carries a value (10_state.md R28). -/
def State.reset : State :=
  { fsr := Fsr.cleared, cmd := Command.undriven, rsp := {}, host := [], sunk := [], freeCount := 0 }

end Sys2Proof.Machine
end

