-- ==== Sys2Proof/Machine/Ops.lean ====
section
/-!
DEFINITION. The shared operations: the bytes of a block buffer (spec 00_scope.md R12), the response of a
transaction, the refusal, taking a `ContractFault` (60_exceptions.md R185) and reset, the only way back (R188).
-/
namespace Sys2Proof.Machine

/-- The byte at offset k of a buffer, bits [8k+7:8k] (20_memory.md R40). -/
def byteAt (b : Block) (k : Nat) : Byte := b.extractLsb' (8 * k) 8

/-- `MemRead(BLK, k, n)`: n bytes from offset k, little-endian (00_scope.md R12). -/
def memRead (b : Block) (k : Nat) : (n : Nat) → BitVec (8 * n)
  | 0 => 0
  | n + 1 => memRead b (k + 1) n ++ byteAt b k

/-- The buffer with the byte at offset k replaced. -/
def setByte (b : Block) (k : Nat) (v : Byte) : Block :=
  (b &&& ~~~(0xFF#64 <<< (8 * k))) ||| (v.setWidth 64 <<< (8 * k))

/-- `MemWrite(OBLK, k, n, v)`: the n low bytes of v to offsets k to k+n-1, least significant first (R12). -/
def memWrite (b : Block) (k : Nat) : (n : Nat) → BitVec (8 * n) → Block
  | 0, _ => b
  | n + 1, v => memWrite (setByte b k (v.extractLsb' 0 8)) (k + 1) n (v.extractLsb' 8 (8 * n))

/-- `FSR.CAUSE` as its 2-bit code (60_exceptions.md R180). -/
def causeCode : Cause → BitVec 2
  | .noFault => 0
  | .illegalCmd => 1
  | .badLength => 2
  | .sinkChannels => 3

/-- `ST` as its 2-bit code (30_encoding.md R68). -/
def statusCode : Status → BitVec 2
  | .ok => 0
  | .fault => 1
  | .refused => 2

/-- FSR as the 32-bit register presented on the output of that name (10_state.md R24). -/
def fsrWord (r : Fsr) : BitVec 32 := r.hdr ++ 0#13 ++ causeCode r.cause ++ BitVec.ofBool r.f

/-- Delivers a response; the sink writes it carries are issued in its order (10_state.md R22, 20_memory.md R50). -/
def respond (s : State) (r : Response) : State :=
  { s with rsp := r, sunk := s.sunk ++ r.sink.getD [] }

/-- The response to a command that finds `FSR.F = 1`: `REFUSED`, no other effect (60_exceptions.md R187). -/
def refuse (s : State) : State := respond s { st := some .refused }

/-- `raise ContractFault(cause)` (60_exceptions.md R185): FSR records the cause and the header of this command, the
response is `FAULT`, nothing else is driven and no sink write is issued. -/
def raiseContractFault (s : State) (cause : Cause) : State :=
  respond { s with fsr := { f := true, cause := cause, hdr := s.cmd.hdr } } { st := some .fault }

/-- Reset (70_reset_and_hazards.md R210): FSR is cleared. The result ports carry no value until the next response
(10_state.md R28; DESIGN CHOICE for a reset that is not the first, log entry 9). -/
def applyReset (s : State) : State := { s with fsr := Fsr.cleared, rsp := {} }

/-- Reset that abandons a transaction which was issuing the sink writes `ws` (70_reset_and_hazards.md R211): some
prefix of them was issued, of a length nothing constrains (free value, log entry 4); no response is delivered. -/
def abandon (s : State) (ws : List SinkWrite) : State :=
  { applyReset s with
    sunk := s.sunk ++ ws.take (Config.resetPrefixLength s.freeCount)
    freeCount := s.freeCount + 1 }

/-- The ports sampled at the start of a transaction, and the rest of what the host does (10_state.md R21). -/
def sample (s : State) (c : Command) (rest : List HostEvent) : State := { s with cmd := c, host := rest }

/-- The command whose `BLK` carries the `OBLK` just delivered (30_encoding.md R70). Where no `OBLK` was delivered `BLK`
keeps what it carried (DESIGN CHOICE, log entry 10). -/
def fedCommand (s : State) (hdr : Header) : Command :=
  { hdr := hdr, ops := { s.cmd.ops with blk := s.rsp.oblk.getD s.cmd.ops.blk } }

/-- The host's next action is to present `c`. -/
def present (s : State) (c : Command) : State := { s with host := .command c :: s.host }

end Sys2Proof.Machine
end

