-- ==== Sys2Proof/Machine/Flags.lean ====
section
/-!
DEFINITION. The one flag, `FSR.F` (spec 10_state.md R25), read by every transaction, and the comparisons of packed
endpoints, which are consumed inside a transaction and stored nowhere (R26).
-/
namespace Sys2Proof.Machine

/-- Every transaction reads `FSR.F` at its start: when it is 1 the command is refused whatever its operation
(R25, 60_exceptions.md R187); otherwise the operation runs. -/
def transaction (s : State) (operation : State → State) : Out State :=
  if s.fsr.f then .next (refuse s) else .next (operation s)

/-- `a < b` on packed values as unsigned 16-bit integers (42_block_encoder.md R120). -/
def packedBelow (a b : Packed565) : Bool := decide (a.toNat < b.toNat)

/-- `three_colour = (is_bc1 == 1) and (A <= B)`, unsigned (43_palette_interpolator.md R140). -/
def threeColour (isBc1 : Bool) (a b : Packed565) : Bool := isBc1 && !packedBelow b a

end Sys2Proof.Machine
end

