-- ==== Sys2Proof/Machine/Operands.lean ====
section
/-!
DEFINITION. The layouts of the operand and result ports (spec 30_encoding.md R67, 10_state.md R21, R22) and the
value of a binary32 word (40_endpoint_packer.md R80).
-/
namespace Sys2Proof.Machine

/-- Component i of a float colour, bits [32i+31:32i]: 0 red, 1 green, 2 blue (R21). -/
def colourWord (c : Colour) (i : Nat) : FloatWord := c.extractLsb' (32 * i) 32

/-- The indices a port carries: `idx[p]` is bits [2p+1:2p] (R21). -/
def indicesOfPort (w : IndexWord) : IndexArray := fun p => w.extractLsb' (2 * p.val) 2

/-- The port that carries sixteen indices: `idx[15] ++ ... ++ idx[0]` (41_block_serializer.md R101). -/
def portOfIndices (f : IndexArray) : IndexWord :=
  f 15 ++ f 14 ++ f 13 ++ f 12 ++ f 11 ++ f 10 ++ f 9 ++ f 8 ++
    f 7 ++ f 6 ++ f 5 ++ f 4 ++ f 3 ++ f 2 ++ f 1 ++ f 0

/-- An RGBA8 value `(R, G, B, A)` (00_scope.md R15). -/
structure Rgba where
  r : Byte
  g : Byte
  b : Byte
  a : Byte
  deriving DecidableEq, Repr

/-- Channel number `ch`: 0 R, 1 G, 2 B, 3 A (30_encoding.md R67, 44_block_decompressor.md R162). -/
def rgbaChannel (q : Rgba) : Fin 4 → Byte
  | 0 => q.r
  | 1 => q.g
  | 2 => q.b
  | 3 => q.a

/-- The 32-bit port layout of a quad: channel ch at bits [8ch+7:8ch] (R67). -/
def rgbaPort (q : Rgba) : BitVec 32 := q.a ++ q.b ++ q.g ++ q.r

/-- Four palette slots (43_palette_interpolator.md R146). -/
structure Palette where
  slot0 : Rgba
  slot1 : Rgba
  slot2 : Rgba
  slot3 : Rgba
  deriving DecidableEq, Repr

/-- The slot a 2-bit index selects. -/
def paletteSlot (p : Palette) (i : BitVec 2) : Rgba :=
  match i with
  | 0 => p.slot0
  | 1 => p.slot1
  | 2 => p.slot2
  | 3 => p.slot3

/-- `PAL[s]` at bits [32s+31:32s] (R22). -/
def palettePort (p : Palette) : BitVec 128 :=
  rgbaPort p.slot3 ++ rgbaPort p.slot2 ++ rgbaPort p.slot1 ++ rgbaPort p.slot0

/-- `PIX[p]` at bits [32p+31:32p] (R22). -/
def pixelPort (f : Fin 16 → Rgba) : BitVec 512 :=
  rgbaPort (f 15) ++ rgbaPort (f 14) ++ rgbaPort (f 13) ++ rgbaPort (f 12) ++
    rgbaPort (f 11) ++ rgbaPort (f 10) ++ rgbaPort (f 9) ++ rgbaPort (f 8) ++
    rgbaPort (f 7) ++ rgbaPort (f 6) ++ rgbaPort (f 5) ++ rgbaPort (f 4) ++
    rgbaPort (f 3) ++ rgbaPort (f 2) ++ rgbaPort (f 1) ++ rgbaPort (f 0)

/-- What a binary32 word stands for (R80): NaN, an infinity, or the exact rational `num / den`, where `den` is a
positive power of two. -/
inductive FloatValue where
  | nan
  | infinity (negative : Bool)
  | finite (num : Int) (den : Nat)
  deriving DecidableEq, Repr

/-- `(-1)^s * n` (R80). -/
def signed (s : Bool) (n : Nat) : Int := if s then -(n : Int) else (n : Int)

/-- `fval(w)`, IEEE 754 binary32 (R80). -/
def fval (w : FloatWord) : FloatValue :=
  let s := w.getLsbD 31
  let e := (w.extractLsb' 23 8).toNat
  let f := (w.extractLsb' 0 23).toNat
  if e = 255 then
    if f ≠ 0 then .nan else .infinity s
  else if e = 0 then .finite (signed s f) (2 ^ 149)
  else if e < 150 then .finite (signed s (2 ^ 23 + f)) (2 ^ (150 - e))
  else .finite (signed s ((2 ^ 23 + f) * 2 ^ (e - 150))) 1

end Sys2Proof.Machine
end

