-- ==== Sys2Proof/Machine/IndexSerializer.lean ====
section
/-!
DEFINITION. The index serializer and the block serializer: `IDXPACK`, `IDXUNPACK`, `WRBLK`
(spec 41_block_serializer.md).
-/
namespace Sys2Proof.Machine

/-- Index byte i, which is block byte 4+i: index 4i in bits [1:0], 4i+1 in [3:2], 4i+2 in [5:4], 4i+3 in [7:6]
(R100). -/
def indexByte (f : IndexArray) (i : Fin 4) : Byte :=
  (f ⟨4 * i.val, by omega⟩).setWidth 8 |||
    ((f ⟨4 * i.val + 1, by omega⟩).setWidth 8 <<< 2) |||
    ((f ⟨4 * i.val + 2, by omega⟩).setWidth 8 <<< 4) |||
    ((f ⟨4 * i.val + 3, by omega⟩).setWidth 8 <<< 6)

/-- The little-endian word of the four index bytes (R100). -/
def packIndices (f : IndexArray) : IndexWord :=
  indexByte f 3 ++ indexByte f 2 ++ indexByte f 1 ++ indexByte f 0

/-- The sixteen indices of an index word: `idx[4i+j] = (byte i >> 2j) & 3` (R101). -/
def unpackIndices (w : IndexWord) : IndexArray := fun p =>
  (((w.extractLsb' (8 * (p.val / 4)) 8) >>> (2 * (p.val % 4))) &&& 3#8).setWidth 2

/-- `wrblk(a, b, idx)`: three little-endian writes that fill the whole output block (R103, R104). -/
def wrblk (a b : Packed565) (f : IndexArray) : Block :=
  memWrite (memWrite (memWrite 0 0 2 a) 2 2 b) 4 4 (packIndices f)

/-- `IDXPACK` (R100). -/
def execIdxpack (s : State) : Out State :=
  transaction s fun s => respond s { st := some .ok, oidx := some (packIndices (indicesOfPort s.cmd.ops.idx)) }

/-- `IDXUNPACK` (R101). -/
def execIdxunpack (s : State) : Out State :=
  transaction s fun s => respond s { st := some .ok, oidx := some (portOfIndices (unpackIndices s.cmd.ops.idx)) }

/-- `WRBLK` (R103). -/
def execWrblk (s : State) : Out State :=
  transaction s fun s =>
    respond s { st := some .ok, oblk := some (wrblk s.cmd.ops.ea s.cmd.ops.eb (indicesOfPort s.cmd.ops.idx)) }

end Sys2Proof.Machine
end

