-- ==== Sys2Proof/Machine/EndpointPacker.lean ====
section
/-!
DEFINITION. The endpoint packer: `PACK565` and `UNPACK565` (spec 40_endpoint_packer.md).
-/
namespace Sys2Proof.Machine

/-- `clamp(i, 0, hi)` (00_scope.md R14). -/
def clampToMax (i : Int) (hi : Nat) : Nat := if i < 0 then 0 else if (hi : Int) < i then hi else i.toNat

/-- `quant(w, max)` (R81). With `v = num / den` the product `p = num * max / den` is never rounded, and
`floor(p + 1/2)` is the floor of `(2 * num * max + den) / (2 * den)`. -/
def quant (w : FloatWord) (max : Nat) : Nat :=
  match fval w with
  | .nan => Config.nanResult
  | .infinity negative => if negative then 0 else max
  | .finite num den => clampToMax ((2 * num * (max : Int) + (den : Int)) / (2 * (den : Int))) max

/-- `pack(c)`: the function of R84 from a colour to a Packed565 value (R87). -/
def pack (c : Colour) : Packed565 :=
  let r5 := BitVec.ofNat 16 (quant (colourWord c 0) Config.scaleRB)
  let g6 := BitVec.ofNat 16 (quant (colourWord c 1) Config.scaleG)
  let b5 := BitVec.ofNat 16 (quant (colourWord c 2) Config.scaleRB)
  (r5 <<< 11) ||| (g6 <<< 5) ||| b5

/-- Bit replication of a 5-bit field (R85). -/
def exp5 (v : BitVec 5) : Byte := (v.setWidth 8 <<< 3) ||| (v.setWidth 8 >>> 2)

/-- Bit replication of a 6-bit field (R85). -/
def exp6 (v : BitVec 6) : Byte := (v.setWidth 8 <<< 2) ||| (v.setWidth 8 >>> 4)

/-- `unpack(v)`: the fields of a packed value, expanded; alpha always opaque (R86). -/
def unpack (v : Packed565) : Rgba :=
  { r := exp5 (v.extractLsb' 11 5), g := exp6 (v.extractLsb' 5 6), b := exp5 (v.extractLsb' 0 5), a := 255 }

/-- `PACK565` (R84). -/
def execPack565 (s : State) : Out State :=
  transaction s fun s => respond s { st := some .ok, q := some (pack s.cmd.ops.ca) }

/-- `UNPACK565` (R86): the length is checked before `BLK` is read. -/
def execUnpack565 (len : Nat) (s : State) : Out State :=
  transaction s fun s =>
    if len ≠ Config.unpackLen then raiseContractFault s .badLength
    else respond s { st := some .ok, rgba := some (rgbaPort (unpack (memRead s.cmd.ops.blk 0 2))) }

end Sys2Proof.Machine
end

