-- ==== Sys2Proof/Machine/PaletteInterpolator.lean ====
section
/-!
DEFINITION. The palette interpolator: `PALETTE` (spec 43_palette_interpolator.md). Sums are exact on naturals and
the truncated quotient fits 8 bits (R144).
-/
namespace Sys2Proof.Machine

/-- `(c + d) / 2`, truncating (R142). -/
def average (c d : Byte) : Byte := BitVec.ofNat 8 ((c.toNat + d.toNat) / 2)

/-- `(2 * c + d) / 3`, truncating: the blend nearer c (R143). -/
def blend21 (c d : Byte) : Byte := BitVec.ofNat 8 ((2 * c.toNat + d.toNat) / 3)

/-- The three colour channels combined by `mix`, opaque. -/
def mixOpaque (mix : Byte → Byte → Byte) (c d : Rgba) : Rgba :=
  { r := mix c.r d.r, g := mix c.g d.g, b := mix c.b d.b, a := 255 }

/-- `(0, 0, 0, 0)` (R142). -/
def transparentBlack : Rgba := { r := 0, g := 0, b := 0, a := 0 }

/-- `palette(A, B, is_bc1)` (R145, R148). The `(c + 2d) / 3` of slot 3 is the blend with its operands exchanged
(R143). -/
def derivePalette (a b : Packed565) (isBc1 : Bool) : Palette :=
  let c := unpack a
  let d := unpack b
  if threeColour isBc1 a b then
    { slot0 := c, slot1 := d, slot2 := mixOpaque average c d, slot3 := transparentBlack }
  else
    { slot0 := c, slot1 := d, slot2 := mixOpaque blend21 c d, slot3 := mixOpaque blend21 d c }

/-- `PALETTE` (R145). -/
def execPalette (isBc1 : Bool) (s : State) : Out State :=
  transaction s fun s =>
    respond s { st := some .ok, pal := some (palettePort (derivePalette s.cmd.ops.ea s.cmd.ops.eb isBc1)) }

end Sys2Proof.Machine
end

