-- ==== Sys2Proof/Machine/BlockDecompressor.lean ====
section
/-!
DEFINITION. The block decompressor: `DECOMP` (spec 44_block_decompressor.md). The sixteen pixels are what is
trusted; `PIX` and the list of sink writes are both laid out from them (R163).
-/
namespace Sys2Proof.Machine

/-- The palette of a block: endpoints A and B from bytes 0 to 3 (R161 steps 1 and 2). -/
def blockPalette (blk : Block) (isBc1 : Bool) : Palette :=
  derivePalette (memRead blk 0 2) (memRead blk 2 2) isBc1

/-- The indices of a block, from bytes 4 to 7 (R161 step 3). -/
def blockIndices (blk : Block) : IndexArray := unpackIndices (memRead blk 4 4)

/-- Pixel p: the palette slot its index selects (R161 step 4). -/
def blockPixel (blk : Block) (isBc1 : Bool) (p : Fin 16) : Rgba :=
  paletteSlot (blockPalette blk isBc1) (blockIndices blk p)

/-- `SinkWrite(x, y, ch, v)` for channel ch of pixel p: `x = p mod 4`, `y = p / 4` (R161). -/
def pixelWrite (f : Fin 16 → Rgba) (p : Fin 16) (ch : Fin 4) : SinkWrite :=
  { x := BitVec.ofNat 2 (p.val % 4), y := BitVec.ofNat 2 (p.val / 4), ch := BitVec.ofNat 2 ch.val,
    v := rgbaChannel (f p) ch }

/-- The sink writes of a tile: pixels in row-major order, channels ascending within a pixel (R161, R162). -/
def tileWrites (f : Fin 16 → Rgba) : List SinkWrite :=
  (List.finRange 16).flatMap fun p => (List.finRange 4).map fun ch => pixelWrite f p ch

/-- The response of a `DECOMP` that passes its checks (R161). -/
def decompResponse (blk : Block) (isBc1 : Bool) : Response :=
  { st := some .ok
    oidx := some (portOfIndices (blockIndices blk))
    pal := some (palettePort (blockPalette blk isBc1))
    pix := some (pixelPort (blockPixel blk isBc1))
    sink := some (tileWrites (blockPixel blk isBc1)) }

/-- `DECOMP` (R161): the length is checked first, the channel count second (60_exceptions.md R184), both before
`BLK` is read (R186). -/
def execDecomp (isBc1 : Bool) (len sinkCh : Nat) (s : State) : Out State :=
  transaction s fun s =>
    if len ≠ Config.blockBytes then raiseContractFault s .badLength
    else if sinkCh < Config.minSinkChannels then raiseContractFault s .sinkChannels
    else respond s (decompResponse s.cmd.ops.blk isBc1)

end Sys2Proof.Machine
end

