-- ==== Sys2Proof/Machine/BlockEncoder.lean ====
section
/-!
DEFINITION. The block encoder: `WRITE3` and `WRITE4` (spec 42_block_encoder.md).
-/
namespace Sys2Proof.Machine

/-- The relabelling of 3-colour mode: 0 and 1 exchanged, 2 and 3 kept (R122). -/
def remap3 (i : BitVec 2) : BitVec 2 :=
  match i with
  | 0 => 1
  | 1 => 0
  | 2 => 2
  | 3 => 3

/-- The relabelling of 4-colour mode: `(i ^ 1) & 0x3` (R125). -/
def remap4 (i : BitVec 2) : BitVec 2 := (i ^^^ 1) &&& 3

/-- The block `WRITE3` produces (R121). -/
def write3Block (start stop : Colour) (f : IndexArray) : Block :=
  let a := pack start
  let b := pack stop
  if packedBelow b a then wrblk b a (fun p => remap3 (f p)) else wrblk a b f

/-- The block `WRITE4` produces (R124); equal packed endpoints force the index word to zero (90_conflicts.md C1). -/
def write4Block (start stop : Colour) (f : IndexArray) : Block :=
  let a := pack start
  let b := pack stop
  if packedBelow a b then wrblk b a (fun p => remap4 (f p))
  else if packedBelow b a then wrblk a b f
  else wrblk a b (fun _ => 0)

/-- `WRITE3` (R121). -/
def execWrite3 (s : State) : Out State :=
  transaction s fun s =>
    respond s { st := some .ok, oblk := some (write3Block s.cmd.ops.ca s.cmd.ops.cb (indicesOfPort s.cmd.ops.idx)) }

/-- `WRITE4` (R124). -/
def execWrite4 (s : State) : Out State :=
  transaction s fun s =>
    respond s { st := some .ok, oblk := some (write4Block s.cmd.ops.ca s.cmd.ops.cb (indicesOfPort s.cmd.ops.idx)) }

end Sys2Proof.Machine
end

