-- ==== Sys2Proof/Machine/Dispatch.lean ====
section
/-!
DEFINITION. One arm per row of the operation table (spec 30_encoding.md R62): which meaning runs, and which header
fields it reads (R63, R66).
-/
namespace Sys2Proof.Machine

def exec (i : Instr) (s : State) : Host.Outcome State Fault Refusal :=
  match i with
  | .pack565 _ _ _ => Sys2Proof.Machine.execPack565 s
  | .unpack565 _ len _ => Sys2Proof.Machine.execUnpack565 len s
  | .idxpack _ _ _ => Sys2Proof.Machine.execIdxpack s
  | .idxunpack _ _ _ => Sys2Proof.Machine.execIdxunpack s
  | .wrblk _ _ _ => Sys2Proof.Machine.execWrblk s
  | .write3 _ _ _ => Sys2Proof.Machine.execWrite3 s
  | .write4 _ _ _ => Sys2Proof.Machine.execWrite4 s
  | .palette isBc1 _ _ => Sys2Proof.Machine.execPalette isBc1 s
  | .decomp isBc1 len sinkCh => Sys2Proof.Machine.execDecomp isBc1 len sinkCh s

end Sys2Proof.Machine
end

