-- ==== Sys2Proof/Machine/Transact.lean ====
section
/-!
DEFINITION. One transaction (spec 30_encoding.md R71) and what the core does at the host's next action
(R60, R70; 70_reset_and_hazards.md R210, R211).
-/
namespace Sys2Proof.Machine

/-- The decoding procedure (30_encoding.md R71) on the sampled command: (1) refuse when `FSR.F = 1` without looking at the
header, (2) an illegal header raises `ILLEGAL_CMD`, (3) otherwise the selected operation runs. -/
def transact (s : State) : Out State :=
  if s.fsr.f then .next (refuse s)
  else
    match decode s.cmd.hdr with
    | .illegal _ => .next (raiseContractFault s .illegalCmd)
    | .instr i => exec i s

/-- Reset during a transaction (70_reset_and_hazards.md R211), from the state `s` before it and what it would have led to. -/
def abandonWhile (s : State) : Out State → Out State
  | .next t => .next (abandon s (t.rsp.sink.getD []))
  | .fault r => .fault r
  | .refused r => .refused r

/-- The host's next action. Where it presents nothing, nothing happens (DESIGN CHOICE, log entry 5). -/
def hostAction (s : State) : Out State :=
  match s.host with
  | [] => .next s
  | .command c :: rest => transact (sample s c rest)
  | .feedBlk hdr :: rest => transact (sample s (fedCommand s hdr) rest)
  | .reset :: rest => .next (applyReset { s with host := rest })
  | .resetDuring c :: rest => abandonWhile (sample s c rest) (transact (sample s c rest))

end Sys2Proof.Machine
end

