-- ==== Sys2Proof/Machine/Step.lean ====
section
/-!
DEFINITION. One step: the host's next action (log entry 2). The hardware has no program counter (spec 10_state.md
R23): an instruction is fetched by being the command the host presents next.
-/
namespace Sys2Proof.Machine

def step (s : State) : Host.Outcome State Fault Refusal := hostAction s

/-- `s` with the header `w` presented next, the operand ports carrying what they carry. -/
def State.withFetchWord (s : State) (nbits w : Nat) : State :=
  present s { hdr := headerOfTableWord nbits w, ops := s.cmd.ops }

end Sys2Proof.Machine
end

