-- ==== Sys2Proof/Machine/Pseudo.lean ====
section
/-!
DEFINITION. The source's names for the operations and the two pseudo-operations the host runs (spec 30_encoding.md R69,
R70).
-/
namespace Sys2Proof.Machine

/-- The software names of the source that are accepted as aliases (R70). -/
inductive SourceCall where
  | pack565
  | unpack565
  | writeBlock
  | write3
  | write4
  | decompress (isBc1 : Bool)
  deriving DecidableEq, Repr

/-- The operation a source name stands for, header fields at their defaults: `len` and `sink_ch` as the operation
requires, an ignored field 0 (R69, R70). -/
def sourceInstr : SourceCall → Instr
  | .pack565 => .pack565 false 0 0
  | .unpack565 => .unpack565 false Config.unpackLen 0
  | .writeBlock => .wrblk false 0 0
  | .write3 => .write3 false 0 0
  | .write4 => .write4 false 0 0
  | .decompress isBc1 => .decomp isBc1 Config.blockBytes Config.minSinkChannels

/-- `ENC3DEC pix <= start, end, idx`: `WRITE3`, then `DECOMP.BC1` on its block (R70). The operands are on `CA`, `CB` and
`IDX` of `ops`; its other ports are read by neither. -/
def enc3dec (ops : Operands) : List HostEvent :=
  [.command { hdr := encode (sourceInstr .write3), ops := ops },
   .feedBlk (encode (sourceInstr (.decompress true)))]

/-- `ENC4DEC.sfx pix <= start, end, idx`: `WRITE4`, then `DECOMP.sfx` on its block (R70). -/
def enc4dec (isBc1 : Bool) (ops : Operands) : List HostEvent :=
  [.command { hdr := encode (sourceInstr .write4), ops := ops },
   .feedBlk (encode (sourceInstr (.decompress isBc1)))]

end Sys2Proof.Machine
end

