-- ==== Sys2Proof/Safety.lean ====
section
/-!
DEFINITION. The terms the statements use: what a legal state is, what a run that served everything is, and reference
forms of the spec's arithmetic on rationals and naturals, written from the rules and not from the machine.
-/
namespace Sys2Proof.Machine

/-- The legal values of FSR's fields (10_state.md R24): `CAUSE` is 0 and `HDR` is 0 while `F = 0`; `CAUSE` is 1, 2 or 3
while `F = 1`. -/
def fsrLegal (r : Fsr) : Prop :=
  (r.f = false → r.cause = .noFault ∧ r.hdr = 0) ∧ (r.f = true → r.cause ≠ .noFault)

/-- No result port carries a value (10_state.md R22). -/
def noResult (r : Response) : Prop :=
  r.q = none ∧ r.rgba = none ∧ r.oidx = none ∧ r.oblk = none ∧ r.pal = none ∧ r.pix = none ∧ r.sink = none

/-- The result ports driven are exactly those of one row of 30_encoding.md R63. -/
def drivesOneRow (r : Response) : Prop :=
  (∃ v, r = { st := r.st, q := some v }) ∨
  (∃ v, r = { st := r.st, rgba := some v }) ∨
  (∃ v, r = { st := r.st, oidx := some v }) ∨
  (∃ v, r = { st := r.st, oblk := some v }) ∨
  (∃ v, r = { st := r.st, pal := some v }) ∨
  (∃ p i x w, r = { st := r.st, pal := some p, oidx := some i, pix := some x, sink := some w } ∧ w.length = 64)

/-- The result ports fit the status (10_state.md R22, 30_encoding.md R68), and the status fits the latch: `OK` is answered
only while `F = 0`, `FAULT` and `REFUSED` only leave `F = 1` (60_exceptions.md R185, R187). -/
def responseLegal (s : State) : Prop :=
  match s.rsp.st with
  | some .ok => drivesOneRow s.rsp ∧ s.fsr.f = false
  | some .fault => noResult s.rsp ∧ s.fsr.f = true
  | some .refused => noResult s.rsp ∧ s.fsr.f = true
  | none => noResult s.rsp ∧ s.fsr.f = false

/-- The invariant every step keeps. -/
def stateLegal (s : State) : Prop := fsrLegal s.fsr ∧ responseLegal s

/-- Everything the host asked for was served: nothing is left to present and the latch is clear (60_exceptions.md R187:
a state with `F = 1` refutes any claim that a sequence of transactions completed). -/
def servedAll (s : State) : Prop := s.host = [] ∧ s.fsr.f = false

/-- The host action asserts reset. -/
def assertsReset : HostEvent → Bool
  | .command _ => false
  | .feedBlk _ => false
  | .reset => true
  | .resetDuring _ => true

/-- `fval(w)` as a rational, straight from 40_endpoint_packer.md R80; none for NaN and the infinities. -/
def floatRat (w : FloatWord) : Option ℚ :=
  let s : ℚ := if w.getLsbD 31 then -1 else 1
  let e := (w.extractLsb' 23 8).toNat
  let f := (w.extractLsb' 0 23).toNat
  if e = 255 then none
  else if e = 0 then some (s * f * 2 ^ (-149 : ℤ))
  else some (s * (2 ^ 23 + f) * 2 ^ ((e : ℤ) - 150))

/-- The rational a `FloatValue` stands for. -/
def valueRat : FloatValue → Option ℚ
  | .finite num den => some ((num : ℚ) / (den : ℚ))
  | .nan => none
  | .infinity _ => none

/-- Channel ch of an expanded packed endpoint, as a sum (40_endpoint_packer.md R85: the OR is also a sum). -/
def expandedChannel (v : Packed565) : Fin 4 → Nat
  | 0 => v.toNat / 2048 * 8 + v.toNat / 2048 / 4
  | 1 => v.toNat / 32 % 64 * 4 + v.toNat / 32 % 64 / 16
  | 2 => v.toNat % 32 * 8 + v.toNat % 32 / 4
  | 3 => 255

/-- Channel ch of slot i of the palette of A and B (43_palette_interpolator.md R145), on naturals. -/
def paletteChannel (a b : Packed565) (isBc1 : Bool) (i : Fin 4) (ch : Fin 4) : Nat :=
  let c := expandedChannel a ch
  let d := expandedChannel b ch
  match i with
  | 0 => c
  | 1 => d
  | 2 => if isBc1 = true ∧ a.toNat ≤ b.toNat then (c + d) / 2 else (2 * c + d) / 3
  | 3 => if isBc1 = true ∧ a.toNat ≤ b.toNat then 0 else (c + 2 * d) / 3

/-- Channel ch of quad k of a port that carries RGBA quads (30_encoding.md R67). -/
def quadChannel {w : Nat} (port : BitVec w) (k : Nat) (ch : Fin 4) : Nat :=
  (port.extractLsb' (32 * k + 8 * ch.val) 8).toNat

/-- Index p of an index word (20_memory.md R43). -/
def wordIndex (w : IndexWord) (p : Nat) : Nat := w.toNat / 4 ^ p % 4

/-- The values written to location (x, y, ch), in order (a sink that stores keeps the last, 44_block_decompressor.md
R162). -/
def writtenAt (ws : List SinkWrite) (x y ch : BitVec 2) : List Byte :=
  (ws.filter fun w => w.x == x && w.y == y && w.ch == ch).map (·.v)

/-- The header fields and operand ports instruction `i` reads agree between two commands (30_encoding.md R63). -/
def sameOperandsRead (i : Instr) (c d : Command) : Prop :=
  match i with
  | .pack565 _ _ _ => c.ops.ca = d.ops.ca
  | .unpack565 _ _ _ =>
    headerLen c.hdr = headerLen d.hdr ∧
      byteAt c.ops.blk 0 = byteAt d.ops.blk 0 ∧ byteAt c.ops.blk 1 = byteAt d.ops.blk 1
  | .idxpack _ _ _ => c.ops.idx = d.ops.idx
  | .idxunpack _ _ _ => c.ops.idx = d.ops.idx
  | .wrblk _ _ _ => c.ops.ea = d.ops.ea ∧ c.ops.eb = d.ops.eb ∧ c.ops.idx = d.ops.idx
  | .write3 _ _ _ => c.ops.ca = d.ops.ca ∧ c.ops.cb = d.ops.cb ∧ c.ops.idx = d.ops.idx
  | .write4 _ _ _ => c.ops.ca = d.ops.ca ∧ c.ops.cb = d.ops.cb ∧ c.ops.idx = d.ops.idx
  | .palette _ _ _ => headerIsBc1 c.hdr = headerIsBc1 d.hdr ∧ c.ops.ea = d.ops.ea ∧ c.ops.eb = d.ops.eb
  | .decomp _ _ _ =>
    headerIsBc1 c.hdr = headerIsBc1 d.hdr ∧ headerLen c.hdr = headerLen d.hdr ∧
      headerSinkCh c.hdr = headerSinkCh d.hdr ∧ c.ops.blk = d.ops.blk

end Sys2Proof.Machine
end

