-- ==== Sys2Proof/Certificates/Slice0/Obligations.lean ====
section
/-!
DEFINITION. The statements about the BC1 block codec core, each from the spec's numbered rules. Every statement is about
the machine's own `decode`, `exec`, `step` or a function they call; the right-hand sides are reference forms on naturals
and rationals (Safety.lean) or fields of the port values.
-/

open Sys2Proof Sys2Proof.Machine

/-! ## Headers -/

/-- Decoding the header of a well-formed instruction gives it back: no header bit is dropped (30_encoding.md R61, R62). -/
def Obligations.DecodeOfEncodeIsTheInstruction : Prop :=
  ∀ i : Instr, i.wellFormed = true → decode (encode i) = .instr i

/-- A header with a meaning is the encoding of that meaning, which is well-formed (30_encoding.md R61, R62). -/
def Obligations.DecodedHeaderIsItsEncoding : Prop :=
  ∀ (h : Header) (i : Instr), decode h = .instr i → i.wellFormed = true ∧ encode i = h

/-- The headers without a meaning are those with a reserved `op` (0x0, 0xA to 0xF) or a non-zero `rsvd`
(30_encoding.md R64, R65; 60_exceptions.md R181). -/
def Obligations.IllegalHeadersAreTheReservedOnes : Prop :=
  ∀ h : Header, (∃ e, decode h = .illegal e) ↔
    (h.toNat % 16 = 0 ∨ 10 ≤ h.toNat % 16) ∨ h.toNat / 32 % 8 ≠ 0

/-- A header selects a row of the operation table when `h & mask == match`: exactly then the decoder reads that row's
operation from it (30_encoding.md R62). -/
def Obligations.HeaderSelectsItsTableRow : Prop :=
  ∀ h : Header, ∀ row ∈ opcodeTable,
    (row.selects h = true ↔ ∃ i, decode h = .instr i ∧ mnemonic i = row.mnemonic)

/-- Headers the spec writes out decode to what it says they are (30_encoding.md R69, 95_test_vectors.md section 2.9). -/
def Obligations.SpelledOutHeadersDecode : Prop :=
  decode 0x0001 = .instr (.pack565 false 0 0) ∧ decode 0x0202 = .instr (.unpack565 false 2 0) ∧
  decode 0x0018 = .instr (.palette true 0 0) ∧ decode 0x4819 = .instr (.decomp true 8 4) ∧
  decode 0x3809 = .instr (.decomp false 8 3) ∧ decode 0xFF11 = .instr (.pack565 true 15 15)

/-! ## One step -/

/-- A step runs the decoded instruction: when the host presents a command whose header decodes to `i`, the step is `exec`
of `i` on the state with the ports sampled; a command fed from `OBLK` likewise (30_encoding.md R60, R70, R71). -/
def Obligations.StepRunsTheDecodedInstruction : Prop :=
  (∀ (s : State) (c : Command) (rest : List HostEvent) (i : Instr),
    s.host = .command c :: rest → decode c.hdr = .instr i →
      step s = exec i { s with cmd := c, host := rest }) ∧
  (∀ (s : State) (hdr : Header) (rest : List HostEvent) (i : Instr) (blk : Block),
    s.host = .feedBlk hdr :: rest → decode hdr = .instr i → s.rsp.oblk = some blk →
      step s = exec i { s with cmd := { hdr := hdr, ops := { s.cmd.ops with blk := blk } }, host := rest })

/-- While `FSR.F = 1` every command, legal or not, is answered `REFUSED`: no result, no sink write, FSR kept; and no
instruction does otherwise (60_exceptions.md R187). -/
def Obligations.LatchedCoreRefusesEveryCommand : Prop :=
  (∀ (s : State) (c : Command) (rest : List HostEvent), s.fsr.f = true → s.host = .command c :: rest →
    step s = .next { s with cmd := c, host := rest, rsp := { st := some .refused } }) ∧
  (∀ (s : State) (hdr : Header) (rest : List HostEvent), s.fsr.f = true → s.host = .feedBlk hdr :: rest →
    ∃ blk : Block, step s = .next { s with
      cmd := { hdr := hdr, ops := { s.cmd.ops with blk := blk } }, host := rest, rsp := { st := some .refused } }) ∧
  (∀ (s : State) (i : Instr), s.fsr.f = true → exec i s = .next { s with rsp := { st := some .refused } })

/-- A command with a reserved `op` or a non-zero `rsvd` raises `ContractFault(ILLEGAL_CMD)`, with the effect of R185 and no
other (30_encoding.md R64, R65). -/
def Obligations.IllegalCommandRaisesContractFault : Prop :=
  ∀ (s : State) (c : Command) (rest : List HostEvent), s.fsr.f = false →
    ((c.hdr.toNat % 16 = 0 ∨ 10 ≤ c.hdr.toNat % 16) ∨ c.hdr.toNat / 32 % 8 ≠ 0) →
      (s.host = .command c :: rest →
        step s = .next { s with
          cmd := c, host := rest, fsr := { f := true, cause := .illegalCmd, hdr := c.hdr },
          rsp := { st := some .fault } }) ∧
      (s.host = .feedBlk c.hdr :: rest →
        ∃ blk : Block, step s = .next { s with
          cmd := { hdr := c.hdr, ops := { s.cmd.ops with blk := blk } }, host := rest,
          fsr := { f := true, cause := .illegalCmd, hdr := c.hdr }, rsp := { st := some .fault } })

/-- No step stops the machine, and a step that takes a command delivers a response to it (70_reset_and_hazards.md R217). -/
def Obligations.EveryCommandIsAnswered : Prop :=
  (∀ s : State, ∃ t, step s = .next t) ∧
  (∀ (s : State) (c : Command) (rest : List HostEvent), s.host = .command c :: rest →
    ∃ t, step s = .next t ∧ t.rsp.st ≠ none ∧ t.cmd = c ∧ t.host = rest)

/-- The response and the sink writes of a transaction depend on its command and on `FSR.F` alone (10_state.md R27). -/
def Obligations.ResponseDependsOnCommandAndLatch : Prop :=
  ∀ (s u : State) (c : Command) (rest rest' : List HostEvent),
    s.host = .command c :: rest → u.host = .command c :: rest' → s.fsr.f = u.fsr.f →
      ∃ s' u' ws, step s = .next s' ∧ step u = .next u' ∧ s'.rsp = u'.rsp ∧
        s'.sunk = s.sunk ++ ws ∧ u'.sunk = u.sunk ++ ws

/-- Two commands for the same operation that agree on the header fields and operand ports it reads get the same response:
what an operation does not read has no effect (30_encoding.md R63, R66). -/
def Obligations.UnreadFieldsAndPortsAreIgnored : Prop :=
  ∀ (s : State) (c d : Command) (rest : List HostEvent) (i : Instr),
    decode c.hdr = .instr i → c.hdr &&& 0x00EF = d.hdr &&& 0x00EF → sameOperandsRead i c d →
      ∃ t u, step { s with host := .command c :: rest } = .next t ∧
        step { s with host := .command d :: rest } = .next u ∧ t.rsp = u.rsp ∧ t.sunk = u.sunk

/-! ## FSR and reset -/

/-- The fields of the 32-bit register (10_state.md R24; cause codes 60_exceptions.md R180). -/
def Obligations.FsrWordLayout : Prop :=
  ∀ r : Fsr,
    (fsrWord r).getLsbD 0 = r.f ∧
    (fsrWord r).extractLsb' 1 2 = (match r.cause with
      | .noFault => 0 | .illegalCmd => 1 | .badLength => 2 | .sinkChannels => 3) ∧
    (fsrWord r).extractLsb' 3 13 = 0 ∧
    (fsrWord r).extractLsb' 16 16 = r.hdr

/-- After reset FSR reads zero and no result port carries a value (10_state.md R28). -/
def Obligations.ResetStateIsClear : Prop :=
  fsrWord State.reset.fsr = 0 ∧ State.reset.rsp.st = none ∧ noResult State.reset.rsp

/-- Reset clears FSR, whether or not `FSR.F` is set, and leaves the ports the host drives and the sink alone
(70_reset_and_hazards.md R210). What the result ports show after it is log entry 9 and not stated here. -/
def Obligations.ResetClearsFsr : Prop :=
  ∀ (s : State) (rest : List HostEvent), s.host = .reset :: rest →
    ∃ t, step s = .next t ∧ fsrWord t.fsr = 0 ∧ t.cmd = s.cmd ∧ t.sunk = s.sunk ∧
      t.freeCount = s.freeCount ∧ t.host = rest

/-- Reset during a transaction delivers no response, clears FSR, and leaves a prefix of the sink writes the transaction
would have issued (70_reset_and_hazards.md R211). It holds for every value of the free prefix length (log entry 4). -/
def Obligations.ResetDuringTransactionIssuesAPrefix : Prop :=
  ∀ (s : State) (c : Command) (rest : List HostEvent), s.host = .resetDuring c :: rest →
    ∃ t u ws, step s = .next t ∧ step { s with host := .command c :: rest } = .next u ∧
      t.rsp.st = none ∧ noResult t.rsp ∧ fsrWord t.fsr = 0 ∧
      ws <+: u.rsp.sink.getD [] ∧ t.sunk = s.sunk ++ ws

/-- A step leaves FSR alone, or it answered `FAULT` and wrote all three fields from a clear latch, or the host asserted reset
and FSR is zero (10_state.md R24). -/
def Obligations.OnlyFaultAndResetWriteFsr : Prop :=
  ∀ s t : State, step s = .next t →
    t.fsr = s.fsr ∨
    (s.fsr.f = false ∧ t.rsp.st = some .fault ∧ t.fsr.f = true ∧ t.fsr.cause ≠ .noFault ∧ t.fsr.hdr = t.cmd.hdr) ∨
    (∃ e rest, s.host = e :: rest ∧ assertsReset e = true ∧ fsrWord t.fsr = 0)

/-- Only reset clears the latch: however many actions of the host are served, while none of them asserts reset a faulted
core keeps its FSR and issues no sink write (60_exceptions.md R187, R188). -/
def Obligations.LatchHoldsUntilReset : Prop :=
  ∀ (n : Nat) (s : State), s.fsr.f = true → (∀ e ∈ s.host, assertsReset e = false) →
    ∃ t, Host.Core.run Sys2Proof.core n s = .next t ∧ t.fsr = s.fsr ∧ t.sunk = s.sunk

/-- Where the host asserts no reset, a run that ends with everything served had a clear latch after every one of its steps
(60_exceptions.md R187: a state with `F = 1` refutes the claim that a sequence completed). -/
def Obligations.ServedRunNeverFaulted : Prop :=
  ∀ (n : Nat) (s t : State), (∀ e ∈ s.host, assertsReset e = false) →
    Host.Core.run Sys2Proof.core n s = .next t → servedAll t →
      ∀ k, k ≤ n → ∃ u, Host.Core.run Sys2Proof.core k s = .next u ∧ u.fsr.f = false

/-- The reset state is legal. -/
def Obligations.ResetStateIsLegal : Prop := stateLegal State.reset

/-- Every step keeps the state legal: FSR holds only legal values (10_state.md R24), and the result ports that carry a value
are those of one operation, only with `OK`, which is answered only while `F = 0` (10_state.md R22, 30_encoding.md R68). That a
state without a response has a clear latch rests on log entries 5 and 9. -/
def Obligations.StepKeepsTheStateLegal : Prop :=
  ∀ s t : State, stateLegal s → step s = .next t → stateLegal t

/-! ## The endpoint packer -/

/-- `fval` is binary32: the exact rational for a finite word, and NaN or an infinity by its bits
(40_endpoint_packer.md R80). -/
def Obligations.FvalIsBinary32 : Prop :=
  ∀ w : FloatWord,
    valueRat (fval w) = floatRat w ∧
    (w.toNat / 2 ^ 23 % 256 = 255 → w.toNat % 2 ^ 23 ≠ 0 → fval w = .nan) ∧
    (w = 0x7F800000 → fval w = .infinity false) ∧
    (w = 0xFF800000 → fval w = .infinity true)

/-- `quant` rounds the exact product to the nearest integer and saturates; NaN gives 0 (40_endpoint_packer.md R81). -/
def Obligations.QuantRoundsAndSaturates : Prop :=
  ∀ (w : FloatWord) (m : Nat), m = 31 ∨ m = 63 →
    (∀ v : ℚ, floatRat w = some v → (quant w m : ℤ) = min (max ⌊v * (m : ℚ) + 1 / 2⌋ 0) (m : ℤ)) ∧
    (w.toNat / 2 ^ 23 % 256 = 255 → w.toNat % 2 ^ 23 ≠ 0 → quant w m = 0) ∧
    (w = 0x7F800000 → quant w m = m) ∧
    (w = 0xFF800000 → quant w m = 0)

/-- The threshold form of `quant` (40_endpoint_packer.md R82). -/
def Obligations.QuantCountsThresholds : Prop :=
  ∀ (w : FloatWord) (m k : Nat) (v : ℚ), m = 31 ∨ m = 63 → floatRat w = some v → 1 ≤ k → k ≤ m →
    (k ≤ quant w m ↔ (2 * (k : ℚ) - 1) / (2 * (m : ℚ)) ≤ v)

/-- The only finite binary32 word whose product lies on a tie is one half; `quant` gives 16 or 32 there, an even number, so
that rounding a tie away from zero, up or to even all agree (40_endpoint_packer.md R83). -/
def Obligations.TieOnlyAtOneHalf : Prop :=
  ∀ (w : FloatWord) (m k : Nat) (v : ℚ), m = 31 ∨ m = 63 → k < m → valueRat (fval w) = some v →
    v * (m : ℚ) = (k : ℚ) + 1 / 2 →
      w = 0x3F000000 ∧ v = 1 / 2 ∧ quant w m = (m + 1) / 2 ∧ quant w m = k + 1 ∧ quant w m % 2 = 0

/-- `PACK565` completes with `Q` holding the three quantised channels of `CA`, and nothing else changes
(40_endpoint_packer.md R84). -/
def Obligations.Pack565QuantisesEachChannel : Prop :=
  ∀ (s : State) (b : Bool) (l c : Nat), s.fsr.f = false →
    encode (.pack565 b l c) &&& 0x00EF = 0x0001 ∧
    ∃ q : Packed565, exec (.pack565 b l c) s = .next { s with rsp := { st := some .ok, q := some q } } ∧
      q.toNat / 2048 = quant (s.cmd.ops.ca.extractLsb' 0 32) 31 ∧
      q.toNat / 32 % 64 = quant (s.cmd.ops.ca.extractLsb' 32 32) 63 ∧
      q.toNat % 32 = quant (s.cmd.ops.ca.extractLsb' 64 32) 31

/-- `UNPACK565` completes when `len = 2`, with the two bytes read little-endian and expanded, alpha 255; any other `len`
raises `ContractFault(BAD_LENGTH)` (40_endpoint_packer.md R86). -/
def Obligations.Unpack565ExpandsTwoBytes : Prop :=
  ∀ (s : State) (b : Bool) (l c : Nat), s.fsr.f = false →
    encode (.unpack565 b l c) &&& 0x00EF = 0x0002 ∧
    (l = 2 → ∃ q : BitVec 32,
      exec (.unpack565 b l c) s = .next { s with rsp := { st := some .ok, rgba := some q } } ∧
      ∀ v : Packed565, v.toNat = (byteAt s.cmd.ops.blk 0).toNat + 256 * (byteAt s.cmd.ops.blk 1).toNat →
        ∀ ch : Fin 4, quadChannel q 0 ch = expandedChannel v ch) ∧
    (l ≠ 2 → exec (.unpack565 b l c) s = .next { s with
      fsr := { f := true, cause := .badLength, hdr := s.cmd.hdr }, rsp := { st := some .fault } })

/-- The expansion of a channel is strictly increasing in its field, 0 gives 0 and the largest field gives 255
(40_endpoint_packer.md R88). -/
def Obligations.ExpansionIsStrictlyIncreasing : Prop :=
  ∀ a b : Packed565,
    (a.toNat / 2048 < b.toNat / 2048 ↔ (unpack a).r.toNat < (unpack b).r.toNat) ∧
    (a.toNat / 32 % 64 < b.toNat / 32 % 64 ↔ (unpack a).g.toNat < (unpack b).g.toNat) ∧
    (a.toNat % 32 < b.toNat % 32 ↔ (unpack a).b.toNat < (unpack b).b.toNat) ∧
    ((unpack a).r = 0 ↔ a.toNat / 2048 = 0) ∧ ((unpack a).r = 255 ↔ a.toNat / 2048 = 31) ∧
    ((unpack a).g = 0 ↔ a.toNat / 32 % 64 = 0) ∧ ((unpack a).g = 255 ↔ a.toNat / 32 % 64 = 63) ∧
    ((unpack a).b = 0 ↔ a.toNat % 32 = 0) ∧ ((unpack a).b = 255 ↔ a.toNat % 32 = 31)

/-! ## The index serializer -/

/-- A block read as bytes, as two 16-bit words and a 32-bit word, or as one 64-bit word gives the same fields
(20_memory.md R44). -/
def Obligations.MixedWidthViewsAgree : Prop :=
  ∀ v : Block,
    (memRead v 0 2).toNat = (byteAt v 0).toNat + 256 * (byteAt v 1).toNat ∧
    (memRead v 0 2 : Packed565) = v.extractLsb' 0 16 ∧
    (memRead v 2 2).toNat = (byteAt v 2).toNat + 256 * (byteAt v 3).toNat ∧
    (memRead v 2 2 : Packed565) = v.extractLsb' 16 16 ∧
    ∀ p : Fin 16,
      indicesOfPort (memRead v 4 4) p = v.extractLsb' (32 + 2 * p.val) 2 ∧
      (indicesOfPort (memRead v 4 4) p).toNat = (byteAt v (4 + p.val / 4)).toNat / 4 ^ (p.val % 4) % 4

/-- `IDXPACK` completes: index 4i+j is digit j, base 4, of byte i of `OIDX`, which is `IDX` bit for bit
(41_block_serializer.md R100). -/
def Obligations.IdxpackPacksFourPerByte : Prop :=
  ∀ (s : State) (b : Bool) (l c : Nat), s.fsr.f = false →
    encode (.idxpack b l c) &&& 0x00EF = 0x0003 ∧
    ∃ w : IndexWord, exec (.idxpack b l c) s = .next { s with rsp := { st := some .ok, oidx := some w } } ∧
      (∀ i, i < 4 → w.toNat / 256 ^ i % 256 =
        wordIndex s.cmd.ops.idx (4 * i) + 4 * wordIndex s.cmd.ops.idx (4 * i + 1) +
          16 * wordIndex s.cmd.ops.idx (4 * i + 2) + 64 * wordIndex s.cmd.ops.idx (4 * i + 3)) ∧
      w = s.cmd.ops.idx

/-- `IDXUNPACK` completes: index 4i+j is bits 2j and 2j+1 of byte i of the word on `IDX` (41_block_serializer.md R101). -/
def Obligations.IdxunpackReadsEachLane : Prop :=
  ∀ (s : State) (b : Bool) (l c : Nat), s.fsr.f = false →
    encode (.idxunpack b l c) &&& 0x00EF = 0x0004 ∧
    ∃ w : IndexWord, exec (.idxunpack b l c) s = .next { s with rsp := { st := some .ok, oidx := some w } } ∧
      ∀ i j, i < 4 → j < 4 → wordIndex w (4 * i + j) = s.cmd.ops.idx.toNat / 256 ^ i % 256 / 4 ^ j % 4

/-- Packing and unpacking indices are inverse to each other, and both are the identity on 32 bits (41_block_serializer.md R102). -/
def Obligations.PackingIndicesIsInvertible : Prop :=
  (∀ f : IndexArray, unpackIndices (packIndices f) = f) ∧ (∀ w : IndexWord, packIndices (unpackIndices w) = w) ∧
  (∀ w : IndexWord, packIndices (indicesOfPort w) = w ∧ portOfIndices (unpackIndices w) = w)

/-- `WRBLK` completes: `EA` then `EB` little-endian in bytes 0 to 3 and the index bytes in 4 to 7, so that
`OBLK = IDX ++ EB ++ EA` (41_block_serializer.md R103). -/
def Obligations.WrblkStoresLittleEndian : Prop :=
  ∀ (s : State) (b : Bool) (l c : Nat), s.fsr.f = false →
    encode (.wrblk b l c) &&& 0x00EF = 0x0005 ∧
    ∃ o : Block, exec (.wrblk b l c) s = .next { s with rsp := { st := some .ok, oblk := some o } } ∧
      byteAt o 0 = s.cmd.ops.ea.extractLsb' 0 8 ∧ byteAt o 1 = s.cmd.ops.ea.extractLsb' 8 8 ∧
      byteAt o 2 = s.cmd.ops.eb.extractLsb' 0 8 ∧ byteAt o 3 = s.cmd.ops.eb.extractLsb' 8 8 ∧
      (∀ i, i < 4 → byteAt o (4 + i) = s.cmd.ops.idx.extractLsb' (8 * i) 8) ∧
      o = s.cmd.ops.idx ++ s.cmd.ops.eb ++ s.cmd.ops.ea

/-- Every 64-bit value is `wrblk` of exactly one triple (41_block_serializer.md R104). -/
def Obligations.WrblkIsABijection : Prop :=
  ∀ o : Block, ∃ a b f, wrblk a b f = o ∧ ∀ a' b' f', wrblk a' b' f' = o → a' = a ∧ b' = b ∧ f' = f

/-! ## The block encoder -/

/-- `WRITE3` completes: endpoints stored in ascending packed order; exchanging them exchanges the labels 0 and 1 and keeps
2 and 3 (42_block_encoder.md R120, R121, R122). -/
def Obligations.Write3OrdersAndRelabels : Prop :=
  ∀ (s : State) (b : Bool) (l c : Nat), s.fsr.f = false →
    encode (.write3 b l c) &&& 0x00EF = 0x0006 ∧
    ∃ o : Block, exec (.write3 b l c) s = .next { s with rsp := { st := some .ok, oblk := some o } } ∧
      ((pack s.cmd.ops.cb).toNat < (pack s.cmd.ops.ca).toNat →
        o.extractLsb' 0 16 = pack s.cmd.ops.cb ∧ o.extractLsb' 16 16 = pack s.cmd.ops.ca ∧
        ∀ p, p < 16 → wordIndex (o.extractLsb' 32 32) p =
          if wordIndex s.cmd.ops.idx p = 0 then 1 else if wordIndex s.cmd.ops.idx p = 1 then 0
          else wordIndex s.cmd.ops.idx p) ∧
      ((pack s.cmd.ops.ca).toNat ≤ (pack s.cmd.ops.cb).toNat →
        o.extractLsb' 0 16 = pack s.cmd.ops.ca ∧ o.extractLsb' 16 16 = pack s.cmd.ops.cb ∧
        o.extractLsb' 32 32 = s.cmd.ops.idx)

/-- A block from `WRITE3` has `A <= B` (42_block_encoder.md R123). -/
def Obligations.Write3BlockHasAAtMostB : Prop :=
  ∀ (s t : State) (b : Bool) (l c : Nat) (o : Block), exec (.write3 b l c) s = .next t → t.rsp.oblk = some o →
    (o.extractLsb' 0 16).toNat ≤ (o.extractLsb' 16 16).toNat

/-- `WRITE4` completes: endpoints stored in descending packed order; exchanging them turns every index i into i XOR 1; equal
packed endpoints force the index word to zero (42_block_encoder.md R120, R124, R125). -/
def Obligations.Write4OrdersAndRelabels : Prop :=
  ∀ (s : State) (b : Bool) (l c : Nat), s.fsr.f = false →
    encode (.write4 b l c) &&& 0x00EF = 0x0007 ∧
    ∃ o : Block, exec (.write4 b l c) s = .next { s with rsp := { st := some .ok, oblk := some o } } ∧
      ((pack s.cmd.ops.ca).toNat < (pack s.cmd.ops.cb).toNat →
        o.extractLsb' 0 16 = pack s.cmd.ops.cb ∧ o.extractLsb' 16 16 = pack s.cmd.ops.ca ∧
        o.extractLsb' 32 32 = s.cmd.ops.idx ^^^ 0x55555555) ∧
      ((pack s.cmd.ops.cb).toNat < (pack s.cmd.ops.ca).toNat →
        o.extractLsb' 0 16 = pack s.cmd.ops.ca ∧ o.extractLsb' 16 16 = pack s.cmd.ops.cb ∧
        o.extractLsb' 32 32 = s.cmd.ops.idx) ∧
      (pack s.cmd.ops.ca = pack s.cmd.ops.cb →
        o.extractLsb' 0 16 = pack s.cmd.ops.ca ∧ o.extractLsb' 16 16 = pack s.cmd.ops.cb ∧
        o.extractLsb' 32 32 = 0#32)

/-- A block from `WRITE4` has `A > B`, or `A == B` with index word 0 (42_block_encoder.md R126). -/
def Obligations.Write4BlockHasAAboveB : Prop :=
  ∀ (s t : State) (b : Bool) (l c : Nat) (o : Block), exec (.write4 b l c) s = .next t → t.rsp.oblk = some o →
    (o.extractLsb' 16 16).toNat < (o.extractLsb' 0 16).toNat ∨
    (o.extractLsb' 0 16 = o.extractLsb' 16 16 ∧ o.extractLsb' 32 32 = 0#32)

/-- `WRITE4` of `(start, end, idx)` and of `(end, start, idx XOR 1 in every lane)` produce the same 8 bytes
(42_block_encoder.md R127). -/
def Obligations.Write4IsSwapConsistent : Prop :=
  ∀ (s u : State) (b b' : Bool) (l l' c c' : Nat), s.fsr.f = false → u.fsr.f = false →
    u.cmd.ops.ca = s.cmd.ops.cb → u.cmd.ops.cb = s.cmd.ops.ca → u.cmd.ops.idx = s.cmd.ops.idx ^^^ 0x55555555 →
      ∃ s' u' o, exec (.write4 b l c) s = .next s' ∧ exec (.write4 b' l' c') u = .next u' ∧
        s'.rsp.oblk = some o ∧ u'.rsp.oblk = some o

/-- The matching law for `WRITE3`: the same bytes when the packed endpoints differ; the same endpoints and each its own
index word when they are equal (42_block_encoder.md R128). -/
def Obligations.Write3SwapLaw : Prop :=
  ∀ (s u : State) (b b' : Bool) (l l' c c' : Nat), s.fsr.f = false → u.fsr.f = false →
    u.cmd.ops.ca = s.cmd.ops.cb → u.cmd.ops.cb = s.cmd.ops.ca →
    (∀ p : Fin 16, indicesOfPort u.cmd.ops.idx p = remap3 (indicesOfPort s.cmd.ops.idx p)) →
      ∃ s' u' o o', exec (.write3 b l c) s = .next s' ∧ exec (.write3 b' l' c') u = .next u' ∧
        s'.rsp.oblk = some o ∧ u'.rsp.oblk = some o' ∧
        (pack s.cmd.ops.ca ≠ pack s.cmd.ops.cb → o = o') ∧
        (pack s.cmd.ops.ca = pack s.cmd.ops.cb →
          o.extractLsb' 0 32 = o'.extractLsb' 0 32 ∧ o.extractLsb' 32 32 = s.cmd.ops.idx ∧
          o'.extractLsb' 32 32 = u.cmd.ops.idx)

/-! ## The palette interpolator -/

/-- `PALETTE` completes: every channel of the four slots is the one of R145, in both modes
(43_palette_interpolator.md R140 to R143, R145). -/
def Obligations.PaletteDerivesFourSlots : Prop :=
  ∀ (s : State) (b : Bool) (l c : Nat), s.fsr.f = false →
    encode (.palette b l c) &&& 0x00EF = 0x0008 ∧
    ∃ v : BitVec 128, exec (.palette b l c) s = .next { s with rsp := { st := some .ok, pal := some v } } ∧
      ∀ i ch : Fin 4, quadChannel v i.val ch = paletteChannel s.cmd.ops.ea s.cmd.ops.eb b i ch

/-- Every blended channel lies between the two endpoint channels (43_palette_interpolator.md R144). -/
def Obligations.BlendsLieBetweenEndpoints : Prop :=
  ∀ (x y : Packed565) (b : Bool) (i ch : Fin 4), (i = 2 ∨ (i = 3 ∧ threeColour b x y = false)) →
    min (quadChannel (palettePort (derivePalette x y b)) 0 ch) (quadChannel (palettePort (derivePalette x y b)) 1 ch)
      ≤ quadChannel (palettePort (derivePalette x y b)) i.val ch ∧
    quadChannel (palettePort (derivePalette x y b)) i.val ch
      ≤ max (quadChannel (palettePort (derivePalette x y b)) 0 ch) (quadChannel (palettePort (derivePalette x y b)) 1 ch)

/-- Equal endpoints: with BC1 semantics slots 0, 1 and 2 are one opaque colour and slot 3 is zero; with BC2/BC3 semantics all
four are that colour (43_palette_interpolator.md R147). -/
def Obligations.EqualEndpointsPalette : Prop :=
  ∀ (s : State) (b : Bool) (l c : Nat), s.fsr.f = false → s.cmd.ops.ea = s.cmd.ops.eb →
    ∃ (t : State) (v : BitVec 128), exec (.palette b l c) s = .next t ∧ t.rsp.pal = some v ∧
      v.extractLsb' 24 8 = 255#8 ∧
      v.extractLsb' 32 32 = v.extractLsb' 0 32 ∧ v.extractLsb' 64 32 = v.extractLsb' 0 32 ∧
      v.extractLsb' 96 32 = if b then 0#32 else v.extractLsb' 0 32

/-! ## The block decompressor -/

/-- `DECOMP` completes when `len = 8` and `sink_ch >= 4`, for every value of `BLK`: the palette of the two stored endpoints,
the sixteen indices, every pixel the slot its index selects, and the sink writes issued after all earlier ones
(44_block_decompressor.md R161, R164). -/
def Obligations.DecompResolvesEveryPixel : Prop :=
  ∀ (s : State) (b : Bool) (c : Nat), s.fsr.f = false → 4 ≤ c →
    ∃ (v : BitVec 128) (x : BitVec 512) (ws : List SinkWrite),
      exec (.decomp b 8 c) s = .next { s with
        rsp := { st := some .ok, pal := some v, oidx := some (s.cmd.ops.blk.extractLsb' 32 32), pix := some x,
                 sink := some ws },
        sunk := s.sunk ++ ws } ∧
      (∀ i ch : Fin 4, quadChannel v i.val ch =
        paletteChannel (s.cmd.ops.blk.extractLsb' 0 16) (s.cmd.ops.blk.extractLsb' 16 16) b i ch) ∧
      (∀ p, p < 16 → x.extractLsb' (32 * p) 32 =
        v.extractLsb' (32 * wordIndex (s.cmd.ops.blk.extractLsb' 32 32) p) 32)

/-- Write number n of a `DECOMP` goes to x = n/4 mod 4, y = n/16, channel n mod 4, and carries that channel of pixel n/4;
there are 64 (44_block_decompressor.md R162, R163). -/
def Obligations.SinkWritesAreInRowMajorOrder : Prop :=
  ∀ (s : State) (b : Bool) (c : Nat), s.fsr.f = false → 4 ≤ c →
    ∃ (t : State) (x : BitVec 512) (ws : List SinkWrite), exec (.decomp b 8 c) s = .next t ∧
      t.rsp.pix = some x ∧ t.rsp.sink = some ws ∧ t.sunk = s.sunk ++ ws ∧ ws.length = 64 ∧
      ∀ n, n < 64 → ws[n]? = some { x := BitVec.ofNat 2 (n / 4 % 4), y := BitVec.ofNat 2 (n / 16),
                                     ch := BitVec.ofNat 2 (n % 4), v := x.extractLsb' (8 * n) 8 }

/-- Each location of the tile is written exactly once, with the value `PIX` has there: for a sink that stores, `PIX` is the
whole effect (44_block_decompressor.md R162). -/
def Obligations.EachSinkLocationIsWrittenOnce : Prop :=
  ∀ (s : State) (b : Bool) (c : Nat), s.fsr.f = false → 4 ≤ c →
    ∃ (t : State) (x : BitVec 512) (ws : List SinkWrite), exec (.decomp b 8 c) s = .next t ∧
      t.rsp.pix = some x ∧ t.rsp.sink = some ws ∧
      ∀ cx cy ch : BitVec 2,
        writtenAt ws cx cy ch = [x.extractLsb' (32 * (4 * cy.toNat + cx.toNat) + 8 * ch.toNat) 8]

/-- A pixel has alpha 0 exactly when `is_bc1 = 1`, `A <= B` and its index is 3, and it is then all zero; every other pixel has
alpha 255 (44_block_decompressor.md R165, R166). -/
def Obligations.OnlyPunchThroughPixelsAreTransparent : Prop :=
  ∀ (s : State) (b : Bool) (c : Nat), s.fsr.f = false → 4 ≤ c →
    ∃ (t : State) (x : BitVec 512), exec (.decomp b 8 c) s = .next t ∧ t.rsp.pix = some x ∧
      ∀ p, p < 16 →
        if b = true ∧ (s.cmd.ops.blk.extractLsb' 0 16).toNat ≤ (s.cmd.ops.blk.extractLsb' 16 16).toNat ∧
            wordIndex (s.cmd.ops.blk.extractLsb' 32 32) p = 3
        then x.extractLsb' (32 * p) 32 = 0#32
        else quadChannel x p 3 = 255

/-- `DECOMP` with `len` not 8 raises `BAD_LENGTH`, whatever the channel count; with `len = 8` and fewer than 4 channels it
raises `SINK_CHANNELS`; either has the effect of R185 and no other (60_exceptions.md R182 to R186). -/
def Obligations.DecompChecksLengthThenChannels : Prop :=
  ∀ (s : State) (b : Bool) (l c : Nat), s.fsr.f = false →
    (l ≠ 8 → exec (.decomp b l c) s = .next { s with
      fsr := { f := true, cause := .badLength, hdr := s.cmd.hdr }, rsp := { st := some .fault } }) ∧
    (l = 8 → c < 4 → exec (.decomp b l c) s = .next { s with
      fsr := { f := true, cause := .sinkChannels, hdr := s.cmd.hdr }, rsp := { st := some .fault } })

/-! ## All operations -/

/-- Every operation but `UNPACK565` and `DECOMP` answers `OK` once decoded, whatever its operands
(60_exceptions.md R196). -/
def Obligations.OnlyContractChecksFault : Prop :=
  ∀ (s : State) (i : Instr), s.fsr.f = false → mnemonic i ≠ "UNPACK565" → mnemonic i ≠ "DECOMP" →
    ∃ t, exec i s = .next t ∧ t.rsp.st = some .ok ∧ t.fsr = s.fsr

/-- Frame of `PACK565`, `IDXPACK`, `IDXUNPACK` and `PALETTE`: FSR, the sampled ports, the sink and the host's list are
unchanged, and no block and no sink write is produced (20_memory.md R46). -/
def Obligations.PortOnlyOperationsFrame : Prop :=
  ∀ (s t : State) (i : Instr),
    mnemonic i = "PACK565" ∨ mnemonic i = "IDXPACK" ∨ mnemonic i = "IDXUNPACK" ∨ mnemonic i = "PALETTE" →
    exec i s = .next t →
      t.fsr = s.fsr ∧ t.cmd = s.cmd ∧ t.host = s.host ∧ t.sunk = s.sunk ∧ t.freeCount = s.freeCount ∧
      t.rsp.oblk = none ∧ t.rsp.sink = none ∧ t.rsp.pix = none ∧ t.rsp.rgba = none

/-- Frame of `WRBLK`, `WRITE3` and `WRITE4`: only the response changes, and of its result ports only `OBLK` can carry a value
(20_memory.md R46, R47). -/
def Obligations.BlockProducersFrame : Prop :=
  ∀ (s t : State) (i : Instr),
    mnemonic i = "WRBLK" ∨ mnemonic i = "WRITE3" ∨ mnemonic i = "WRITE4" → exec i s = .next t →
      t.fsr = s.fsr ∧ t.cmd = s.cmd ∧ t.host = s.host ∧ t.sunk = s.sunk ∧ t.freeCount = s.freeCount ∧
      t.rsp = { st := t.rsp.st, oblk := t.rsp.oblk }

/-- Frame of `UNPACK565` and `DECOMP`: the sampled ports and the host's list are unchanged; FSR changes only with a `FAULT`
response; the sink only gains the writes of an `OK` response, and `UNPACK565` has none (20_memory.md R46, R47;
60_exceptions.md R186). -/
def Obligations.CheckedOperationsFrame : Prop :=
  ∀ (s t : State) (i : Instr), mnemonic i = "UNPACK565" ∨ mnemonic i = "DECOMP" → exec i s = .next t →
    t.cmd = s.cmd ∧ t.host = s.host ∧ t.freeCount = s.freeCount ∧ t.rsp.oblk = none ∧ t.rsp.q = none ∧
    (t.rsp.st ≠ some .fault → t.fsr = s.fsr) ∧
    (t.rsp.st ≠ some .ok → noResult t.rsp) ∧
    t.sunk = s.sunk ++ t.rsp.sink.getD [] ∧
    (mnemonic i = "UNPACK565" → t.sunk = s.sunk)

/-! ## Encoding, then decoding -/

/-- `ENC3DEC`: whichever way `WRITE3` had to order the endpoints, the decoded pixel of index 0 is the packed start, of 1 the
packed end, of 2 their average, of 3 transparent black (44_block_decompressor.md R168, 42_block_encoder.md R129). -/
def Obligations.Enc3decRoundTrip : Prop :=
  ∀ (s : State) (ops : Operands) (rest : List HostEvent), s.fsr.f = false → s.host = enc3dec ops ++ rest →
    ∃ (t : State) (x : BitVec 512), Host.Core.run Sys2Proof.core 2 s = .next t ∧
      t.rsp.st = some .ok ∧ t.rsp.pix = some x ∧ t.fsr = s.fsr ∧ t.host = rest ∧
      ∀ (p : Nat) (ch : Fin 4), p < 16 →
        (wordIndex ops.idx p = 0 → quadChannel x p ch = expandedChannel (pack ops.ca) ch) ∧
        (wordIndex ops.idx p = 1 → quadChannel x p ch = expandedChannel (pack ops.cb) ch) ∧
        (wordIndex ops.idx p = 2 → quadChannel x p ch =
          (expandedChannel (pack ops.ca) ch + expandedChannel (pack ops.cb) ch) / 2) ∧
        (wordIndex ops.idx p = 3 → quadChannel x p ch = 0)

/-- `ENC4DEC`, with either `is_bc1`: with different packed endpoints index 0 shows the packed start, 1 the packed end, 2 and 3
the blends nearer each; with equal ones every pixel shows the packed start (44_block_decompressor.md R168). -/
def Obligations.Enc4decRoundTrip : Prop :=
  ∀ (s : State) (b : Bool) (ops : Operands) (rest : List HostEvent), s.fsr.f = false → s.host = enc4dec b ops ++ rest →
    ∃ (t : State) (x : BitVec 512), Host.Core.run Sys2Proof.core 2 s = .next t ∧
      t.rsp.st = some .ok ∧ t.rsp.pix = some x ∧ t.fsr = s.fsr ∧ t.host = rest ∧
      ∀ (p : Nat) (ch : Fin 4), p < 16 →
        (pack ops.ca = pack ops.cb → quadChannel x p ch = expandedChannel (pack ops.ca) ch) ∧
        (pack ops.ca ≠ pack ops.cb →
          (wordIndex ops.idx p = 0 → quadChannel x p ch = expandedChannel (pack ops.ca) ch) ∧
          (wordIndex ops.idx p = 1 → quadChannel x p ch = expandedChannel (pack ops.cb) ch) ∧
          (wordIndex ops.idx p = 2 → quadChannel x p ch =
            (2 * expandedChannel (pack ops.ca) ch + expandedChannel (pack ops.cb) ch) / 3) ∧
          (wordIndex ops.idx p = 3 → quadChannel x p ch =
            (expandedChannel (pack ops.ca) ch + 2 * expandedChannel (pack ops.cb) ch) / 3))
end

