-- ==== Sys2Proof/Laws/State.lean ====
section
/-!
SUPPORT. One lemma per field per state operation, so that no proof unfolds a record update.
-/
namespace Sys2Proof.Machine

section respond

@[simp] theorem respond_fsr (s : State) (r : Response) : (respond s r).fsr = s.fsr := rfl
@[simp] theorem respond_cmd (s : State) (r : Response) : (respond s r).cmd = s.cmd := rfl
@[simp] theorem respond_rsp (s : State) (r : Response) : (respond s r).rsp = r := rfl
@[simp] theorem respond_host (s : State) (r : Response) : (respond s r).host = s.host := rfl
@[simp] theorem respond_sunk (s : State) (r : Response) : (respond s r).sunk = s.sunk ++ r.sink.getD [] := rfl
@[simp] theorem respond_freeCount (s : State) (r : Response) : (respond s r).freeCount = s.freeCount := rfl

end respond

section refuse

@[simp] theorem refuse_fsr (s : State) : (refuse s).fsr = s.fsr := rfl
@[simp] theorem refuse_cmd (s : State) : (refuse s).cmd = s.cmd := rfl
@[simp] theorem refuse_rsp (s : State) : (refuse s).rsp = { st := some .refused } := rfl
@[simp] theorem refuse_host (s : State) : (refuse s).host = s.host := rfl
@[simp] theorem refuse_sunk (s : State) : (refuse s).sunk = s.sunk := by simp [refuse, respond]
@[simp] theorem refuse_freeCount (s : State) : (refuse s).freeCount = s.freeCount := rfl

end refuse

section raiseContractFault

@[simp] theorem raiseContractFault_fsr (s : State) (c : Cause) : (raiseContractFault s c).fsr = { f := true, cause := c, hdr := s.cmd.hdr } := rfl
@[simp] theorem raiseContractFault_cmd (s : State) (c : Cause) : (raiseContractFault s c).cmd = s.cmd := rfl
@[simp] theorem raiseContractFault_rsp (s : State) (c : Cause) : (raiseContractFault s c).rsp = { st := some .fault } := rfl
@[simp] theorem raiseContractFault_host (s : State) (c : Cause) : (raiseContractFault s c).host = s.host := rfl
@[simp] theorem raiseContractFault_sunk (s : State) (c : Cause) : (raiseContractFault s c).sunk = s.sunk := by simp [raiseContractFault, respond]
@[simp] theorem raiseContractFault_freeCount (s : State) (c : Cause) : (raiseContractFault s c).freeCount = s.freeCount := rfl

end raiseContractFault

section applyReset

@[simp] theorem applyReset_fsr (s : State) : (applyReset s).fsr = Fsr.cleared := rfl
@[simp] theorem applyReset_cmd (s : State) : (applyReset s).cmd = s.cmd := rfl
@[simp] theorem applyReset_rsp (s : State) : (applyReset s).rsp = {} := rfl
@[simp] theorem applyReset_host (s : State) : (applyReset s).host = s.host := rfl
@[simp] theorem applyReset_sunk (s : State) : (applyReset s).sunk = s.sunk := rfl
@[simp] theorem applyReset_freeCount (s : State) : (applyReset s).freeCount = s.freeCount := rfl

end applyReset

section abandon

@[simp] theorem abandon_fsr (s : State) (ws : List SinkWrite) : (abandon s ws).fsr = Fsr.cleared := rfl
@[simp] theorem abandon_cmd (s : State) (ws : List SinkWrite) : (abandon s ws).cmd = s.cmd := rfl
@[simp] theorem abandon_rsp (s : State) (ws : List SinkWrite) : (abandon s ws).rsp = {} := rfl
@[simp] theorem abandon_host (s : State) (ws : List SinkWrite) : (abandon s ws).host = s.host := rfl
@[simp] theorem abandon_sunk (s : State) (ws : List SinkWrite) : (abandon s ws).sunk = s.sunk ++ ws.take (Config.resetPrefixLength s.freeCount) := rfl
@[simp] theorem abandon_freeCount (s : State) (ws : List SinkWrite) : (abandon s ws).freeCount = s.freeCount + 1 := rfl

end abandon

section sample

@[simp] theorem sample_fsr (s : State) (c : Command) (es : List HostEvent) : (sample s c es).fsr = s.fsr := rfl
@[simp] theorem sample_cmd (s : State) (c : Command) (es : List HostEvent) : (sample s c es).cmd = c := rfl
@[simp] theorem sample_rsp (s : State) (c : Command) (es : List HostEvent) : (sample s c es).rsp = s.rsp := rfl
@[simp] theorem sample_host (s : State) (c : Command) (es : List HostEvent) : (sample s c es).host = es := rfl
@[simp] theorem sample_sunk (s : State) (c : Command) (es : List HostEvent) : (sample s c es).sunk = s.sunk := rfl
@[simp] theorem sample_freeCount (s : State) (c : Command) (es : List HostEvent) : (sample s c es).freeCount = s.freeCount := rfl

end sample

section present

@[simp] theorem present_fsr (s : State) (c : Command) : (present s c).fsr = s.fsr := rfl
@[simp] theorem present_cmd (s : State) (c : Command) : (present s c).cmd = s.cmd := rfl
@[simp] theorem present_rsp (s : State) (c : Command) : (present s c).rsp = s.rsp := rfl
@[simp] theorem present_host (s : State) (c : Command) : (present s c).host = .command c :: s.host := rfl
@[simp] theorem present_sunk (s : State) (c : Command) : (present s c).sunk = s.sunk := rfl
@[simp] theorem present_freeCount (s : State) (c : Command) : (present s c).freeCount = s.freeCount := rfl

end present

end Sys2Proof.Machine
end

