-- ==== Sys2Proof/Laws/Buffer.lean ====
section
/-!
SUPPORT. The block buffers: a read after a write gives the value written, a write leaves every other byte alone, and
what the wide accesses, the block serializer and the two index forms come to as bits.
-/
namespace Sys2Proof.Machine

theorem getLsbD_setByte (b : Block) (k : Nat) (v : Byte) (j : Nat) :
    (setByte b k v).getLsbD j =
      if 8 * k ≤ j ∧ j < 8 * k + 8 ∧ j < 64 then v.getLsbD (j - 8 * k) else b.getLsbD j := by
  simp only [setByte, BitVec.getLsbD_or, BitVec.getLsbD_and, BitVec.getLsbD_not, BitVec.getLsbD_shiftLeft,
    BitVec.getLsbD_setWidth]
  have hff : ∀ i, (0xFF#64).getLsbD i = decide (i < 8) := by
    intro i
    by_cases h : i < 64
    · revert i; decide
    · rw [BitVec.getLsbD_of_ge _ _ (by omega)]; simp; omega
  rw [hff]
  by_cases hj : j < 64
  · by_cases h1 : 8 * k ≤ j
    · by_cases h2 : j < 8 * k + 8
      · have : j - 8 * k < 8 := by omega
        simp [hj, h1, h2, this, show ¬ j < 8 * k by omega, show j - 8 * k < 64 by omega]
      · have : ¬ j - 8 * k < 8 := by omega
        have h3 : v.getLsbD (j - 8 * k) = false := BitVec.getLsbD_of_ge _ _ (by omega)
        simp [hj, h1, h2, this, h3, show ¬ j < 8 * k by omega]
    · simp [hj, h1, show j < 8 * k by omega]
  · simp [hj, BitVec.getLsbD_of_ge b j (by omega)]

/-- A byte written inside the buffer is the byte read there. -/
theorem byteAt_setByte_same (b : Block) (k : Nat) (v : Byte) (h : k < 8) : byteAt (setByte b k v) k = v := by
  ext i hi
  simp only [byteAt, BitVec.getElem_extractLsb', getLsbD_setByte]
  simp [show 8 * k + i < 64 by omega, hi]

/-- Every other byte is left alone. -/
theorem byteAt_setByte_other (b : Block) (k j : Nat) (v : Byte) (h : j ≠ k) :
    byteAt (setByte b k v) j = byteAt b j := by
  ext i hi
  simp only [byteAt, BitVec.getElem_extractLsb', getLsbD_setByte]
  rw [if_neg (by omega)]

/-- A wide read is the field of the port that starts at its lowest byte (20_memory.md R44). -/
theorem memRead_eq_extractLsb' (b : Block) (n : Nat) : ∀ k, memRead b k n = b.extractLsb' (8 * k) (8 * n) := by
  induction n with
  | zero => intro k; exact BitVec.eq_of_zero_length rfl
  | succ n ih =>
    intro k
    apply BitVec.eq_of_getLsbD_eq
    intro i hi
    change (memRead b (k + 1) n ++ byteAt b k).getLsbD i = _
    rw [BitVec.getLsbD_append, ih]
    simp only [byteAt, BitVec.getLsbD_extractLsb']
    by_cases h : i < 8
    · simp [h, hi]
    · simp [h, hi, show i - 8 < 8 * n by omega, show 8 * (k + 1) + (i - 8) = 8 * k + i by omega]

theorem memWrite_getLsbD (n : Nat) : ∀ (b : Block) (k : Nat) (v : BitVec (8 * n)) (j : Nat),
    (memWrite b k n v).getLsbD j =
      if 8 * k ≤ j ∧ j < 8 * k + 8 * n ∧ j < 64 then v.getLsbD (j - 8 * k) else b.getLsbD j := by
  induction n with
  | zero => intro b k v j; rw [if_neg (by omega)]; rfl
  | succ n ih =>
    intro b k v j
    simp only [memWrite, ih, getLsbD_setByte, BitVec.getLsbD_extractLsb']
    by_cases h64 : j < 64
    · by_cases h1 : 8 * k ≤ j
      · by_cases h2 : j < 8 * k + 8
        · simp [h64, h1, h2, show ¬ 8 * (k + 1) ≤ j by omega, show j < 8 * k + 8 * (n + 1) by omega,
            show j - 8 * k < 8 by omega]
        · by_cases h3 : j < 8 * k + 8 * (n + 1)
          · simp [h64, h1, h3, show 8 * (k + 1) ≤ j by omega, show j < 8 * (k + 1) + 8 * n by omega,
              show j - 8 * (k + 1) < 8 * n by omega, show 8 + (j - 8 * (k + 1)) = j - 8 * k by omega]
          · simp [h2, h3, show ¬ j < 8 * (k + 1) + 8 * n by omega]
      · simp [h1, show ¬ 8 * (k + 1) ≤ j by omega]
    · simp [h64]

/-- Writing n bytes inside the buffer and reading them back (20_memory.md R42). -/
theorem memRead_memWrite_same (b : Block) (k n : Nat) (v : BitVec (8 * n)) (h : k + n ≤ 8) :
    memRead (memWrite b k n v) k n = v := by
  rw [memRead_eq_extractLsb']
  apply BitVec.eq_of_getLsbD_eq
  intro i hi
  rw [BitVec.getLsbD_extractLsb', memWrite_getLsbD, if_pos (by omega)]
  simp [hi]

/-- Bytes outside the written range are left alone. -/
theorem byteAt_memWrite_other (b : Block) (k n j : Nat) (v : BitVec (8 * n)) (h : j < k ∨ k + n ≤ j) :
    byteAt (memWrite b k n v) j = byteAt b j := by
  ext i hi
  simp only [byteAt, BitVec.getElem_extractLsb', memWrite_getLsbD]
  rw [if_neg (by omega)]

theorem getLsbD_portOfIndices (f : IndexArray) (j : Nat) (h : j < 32) :
    (portOfIndices f).getLsbD j = (f ⟨j / 2, by omega⟩).getLsbD (j % 2) := by
  unfold portOfIndices
  interval_cases j <;> simp only [BitVec.getLsbD_append, Nat.reduceLT, Nat.reduceSub, if_true, if_false] <;> rfl

/-- The lanes of the port are the indices. -/
theorem indicesOfPort_portOfIndices (f : IndexArray) : indicesOfPort (portOfIndices f) = f := by
  funext p
  ext i hi
  simp only [indicesOfPort, BitVec.getElem_extractLsb']
  rw [getLsbD_portOfIndices _ _ (by omega)]
  have h1 : (2 * p.val + i) / 2 = p.val := by omega
  have h2 : (2 * p.val + i) % 2 = i := by omega
  simp [h1, h2, BitVec.getLsbD_eq_getElem hi]

theorem portOfIndices_indicesOfPort (w : IndexWord) : portOfIndices (indicesOfPort w) = w := by
  apply BitVec.eq_of_getLsbD_eq
  intro j hj
  rw [getLsbD_portOfIndices _ _ hj]
  have hlane : j % 2 < 2 := by omega
  simp only [indicesOfPort, BitVec.getLsbD_extractLsb', hlane, decide_true, Bool.true_and,
    show 2 * (j / 2) + j % 2 = j by omega]

/-- The byte formula of `IDXPACK` puts index p at bits [2p+1:2p] (20_memory.md R43). -/
theorem packIndices_eq_portOfIndices (f : IndexArray) : packIndices f = portOfIndices f := by
  apply BitVec.eq_of_getLsbD_eq
  intro j hj
  rw [getLsbD_portOfIndices _ _ hj]
  unfold packIndices
  have hbyte : ∀ (i : Fin 4) (k : Nat) (h : k < 8), (indexByte f i).getLsbD k =
      (f ⟨4 * i.val + k / 2, by omega⟩).getLsbD (k % 2) := by
    intro i k hk
    simp only [indexByte, BitVec.getLsbD_or, BitVec.getLsbD_shiftLeft, BitVec.getLsbD_setWidth]
    interval_cases k <;>
      simp [BitVec.getLsbD_of_ge]
  have lane : ∀ {a b c d : Nat} (ha : a < 16) (hc : c < 16), a = c → b = d →
      (f ⟨a, ha⟩).getLsbD b = (f ⟨c, hc⟩).getLsbD d := by
    intro a b c d ha hc h1 h2; subst h1; subst h2; rfl
  simp only [BitVec.getLsbD_append]
  split
  · rw [hbyte _ _ (by omega)]
    exact lane _ _ (by show 4 * 0 + j / 2 = j / 2; omega) rfl
  · split
    · rw [hbyte _ _ (by omega)]
      exact lane _ _ (by show 4 * 1 + (j - 8) / 2 = j / 2; omega) (by omega)
    · split
      · rw [hbyte _ _ (by omega)]
        exact lane _ _ (by show 4 * 2 + (j - 8 - 8) / 2 = j / 2; omega) (by omega)
      · rw [hbyte _ _ (by omega)]
        exact lane _ _ (by show 4 * 3 + (j - 8 - 8 - 8) / 2 = j / 2; omega) (by omega)

/-- The byte formula of `IDXUNPACK` reads index p from bits [2p+1:2p] (R101, R43). -/
theorem unpackIndices_eq_indicesOfPort (w : IndexWord) : unpackIndices w = indicesOfPort w := by
  funext p
  have h3 : ∀ i, i < 2 → (3#8).getLsbD i = true := by decide
  apply BitVec.eq_of_getLsbD_eq
  intro i hi
  simp only [unpackIndices, indicesOfPort, BitVec.getLsbD_setWidth, BitVec.getLsbD_and, BitVec.getLsbD_ushiftRight,
    BitVec.getLsbD_extractLsb', h3 i hi]
  simp [hi, show 2 * (p.val % 4) + i < 8 by omega,
    show 8 * (p.val / 4) + (2 * (p.val % 4) + i) = 2 * p.val + i by omega]

/-- The three writes of `WRBLK` fill the whole buffer: `OBLK = IDX ++ EB ++ EA` (R103). -/
theorem wrblk_eq_append (a b : Packed565) (f : IndexArray) : wrblk a b f = portOfIndices f ++ b ++ a := by
  apply BitVec.eq_of_getLsbD_eq
  intro j hj
  rw [wrblk, packIndices_eq_portOfIndices]
  simp only [memWrite_getLsbD, BitVec.getLsbD_append]
  by_cases h1 : j < 16
  · simp [h1, hj, show ¬ 32 ≤ j by omega, show ¬ 16 ≤ j by omega]
  · by_cases h2 : j < 32
    · simp [h1, h2, hj, show ¬ 32 ≤ j by omega, show 16 ≤ j by omega, show j - 16 < 16 by omega]
    · simp [h1, hj, show 32 ≤ j by omega, show ¬ j - 16 < 16 by omega, show j - 16 - 16 = j - 32 by omega]

end Sys2Proof.Machine
end

