-- ==== Sys2Proof/Laws/PerInstr.lean ====
section
/-!
SUPPORT. Statements made per instruction: the header of each instruction selects its own row of the operation table
(spec 30_encoding.md R62).
-/
namespace Sys2Proof.Laws.TableRow

/-- The header of the instruction selects the row of its mnemonic, and no other row. -/
def Statement (i : Instr) : Prop :=
  (∃ row ∈ opcodeTable, row.mnemonic = mnemonic i) ∧
    ∀ row ∈ opcodeTable, row.selects (encode i) = decide (row.mnemonic = mnemonic i)

/-- The operation code and the reserved bits, which the mask keeps, are all that the mask keeps. -/
theorem encode_masked (i : Instr) : encode i &&& 0x00EF#16 = (opCode i).setWidth 16 := by
  unfold encode
  generalize BitVec.ofNat 4 i.sinkCh = c
  generalize BitVec.ofNat 4 i.len = l
  generalize i.isBc1 = b
  generalize opCode i = o
  apply BitVec.eq_of_getLsbD_eq
  intro j hj
  simp only [BitVec.getLsbD_and, BitVec.getLsbD_append, BitVec.getLsbD_setWidth]
  interval_cases j <;> simp [BitVec.getLsbD_of_ge]

theorem selects_encode (row : OpcodeRow) (i : Instr) (h : row.mask = 0x00EF) :
    row.selects (encode i) = ((opCode i).setWidth 16 == row.pattern) := by
  rw [OpcodeRow.selects, h]
  exact congrArg (· == row.pattern) (encode_masked i)

theorem of_row (i : Instr) (m : String) (o : BitVec 4) (hm : mnemonic i = m) (ho : opCode i = o)
    (hrow : ∃ row ∈ opcodeTable, row.mnemonic = m)
    (h : ∀ row ∈ opcodeTable, row.mask = 0x00EF ∧
      (o.setWidth 16 == row.pattern) = decide (row.mnemonic = m)) : Statement i := by
  subst hm ho
  exact ⟨hrow, fun row hr => by rw [selects_encode row i (h row hr).1, (h row hr).2]⟩

theorem pack565 (b : Bool) (l c : Nat) : Statement (.pack565 b l c) :=
  of_row _ "PACK565" 1 rfl rfl (by decide) (by decide)
theorem unpack565 (b : Bool) (l c : Nat) : Statement (.unpack565 b l c) :=
  of_row _ "UNPACK565" 2 rfl rfl (by decide) (by decide)
theorem idxpack (b : Bool) (l c : Nat) : Statement (.idxpack b l c) :=
  of_row _ "IDXPACK" 3 rfl rfl (by decide) (by decide)
theorem idxunpack (b : Bool) (l c : Nat) : Statement (.idxunpack b l c) :=
  of_row _ "IDXUNPACK" 4 rfl rfl (by decide) (by decide)
theorem wrblk (b : Bool) (l c : Nat) : Statement (.wrblk b l c) :=
  of_row _ "WRBLK" 5 rfl rfl (by decide) (by decide)
theorem write3 (b : Bool) (l c : Nat) : Statement (.write3 b l c) :=
  of_row _ "WRITE3" 6 rfl rfl (by decide) (by decide)
theorem write4 (b : Bool) (l c : Nat) : Statement (.write4 b l c) :=
  of_row _ "WRITE4" 7 rfl rfl (by decide) (by decide)
theorem palette (b : Bool) (l c : Nat) : Statement (.palette b l c) :=
  of_row _ "PALETTE" 8 rfl rfl (by decide) (by decide)
theorem decomp (b : Bool) (l c : Nat) : Statement (.decomp b l c) :=
  of_row _ "DECOMP" 9 rfl rfl (by decide) (by decide)

end Sys2Proof.Laws.TableRow
end

