-- ==== Sys2Proof/Laws/Transact.lean ====
section
/-!
SUPPORT. What the shared operations answer, said once: the refusal test of a transaction, the decoding procedure, and
the host's next action.
-/
namespace Sys2Proof.Machine

theorem transaction_of_clear {s : State} (h : s.fsr.f = false) (g : State → State) :
    transaction s g = .next (g s) := by simp [transaction, h]

theorem transaction_of_latched {s : State} (h : s.fsr.f = true) (g : State → State) :
    transaction s g = .next (refuse s) := by simp [transaction, h]

/-- A response without sink writes changes the result ports and nothing else. -/
theorem respond_without_sink (s : State) (r : Response) (h : r.sink = none) : respond s r = { s with rsp := r } := by
  simp [respond, h]

theorem refuse_eq (s : State) : refuse s = { s with rsp := { st := some .refused } } :=
  respond_without_sink s _ rfl

/-- The whole effect of taking a `ContractFault` (60_exceptions.md R185). -/
theorem raiseContractFault_eq (s : State) (c : Cause) :
    raiseContractFault s c =
      { s with fsr := { f := true, cause := c, hdr := s.cmd.hdr }, rsp := { st := some .fault } } :=
  respond_without_sink _ _ rfl

/-! What each operation does once it runs. -/

section Clear

variable {s : State} (h : s.fsr.f = false) (b : Bool) (l c : Nat)
include h

theorem exec_pack565 : exec (.pack565 b l c) s =
    .next (respond s { st := some .ok, q := some (pack s.cmd.ops.ca) }) := by
  rw [exec, execPack565, transaction_of_clear h]

theorem exec_idxpack : exec (.idxpack b l c) s =
    .next (respond s { st := some .ok, oidx := some (packIndices (indicesOfPort s.cmd.ops.idx)) }) := by
  rw [exec, execIdxpack, transaction_of_clear h]

theorem exec_idxunpack : exec (.idxunpack b l c) s =
    .next (respond s { st := some .ok, oidx := some (portOfIndices (unpackIndices s.cmd.ops.idx)) }) := by
  rw [exec, execIdxunpack, transaction_of_clear h]

theorem exec_wrblk : exec (.wrblk b l c) s =
    .next (respond s { st := some .ok, oblk := some (wrblk s.cmd.ops.ea s.cmd.ops.eb (indicesOfPort s.cmd.ops.idx)) }) := by
  rw [exec, execWrblk, transaction_of_clear h]

theorem exec_write3 : exec (.write3 b l c) s =
    .next (respond s { st := some .ok, oblk := some (write3Block s.cmd.ops.ca s.cmd.ops.cb (indicesOfPort s.cmd.ops.idx)) }) := by
  rw [exec, execWrite3, transaction_of_clear h]

theorem exec_write4 : exec (.write4 b l c) s =
    .next (respond s { st := some .ok, oblk := some (write4Block s.cmd.ops.ca s.cmd.ops.cb (indicesOfPort s.cmd.ops.idx)) }) := by
  rw [exec, execWrite4, transaction_of_clear h]

theorem exec_palette : exec (.palette b l c) s =
    .next (respond s { st := some .ok, pal := some (palettePort (derivePalette s.cmd.ops.ea s.cmd.ops.eb b)) }) := by
  rw [exec, execPalette, transaction_of_clear h]

theorem exec_unpack565 : exec (.unpack565 b l c) s =
    .next (if l ≠ Config.unpackLen then raiseContractFault s .badLength
      else respond s { st := some .ok, rgba := some (rgbaPort (unpack (memRead s.cmd.ops.blk 0 2))) }) := by
  rw [exec, execUnpack565, transaction_of_clear h]

theorem exec_decomp : exec (.decomp b l c) s =
    .next (if l ≠ Config.blockBytes then raiseContractFault s .badLength
      else if c < Config.minSinkChannels then raiseContractFault s .sinkChannels
      else respond s (decompResponse s.cmd.ops.blk b)) := by
  rw [exec, execDecomp, transaction_of_clear h]

end Clear

/-- Every operation makes the refusal test of `FSR.F` (10_state.md R25). -/
theorem exec_is_transaction (i : Instr) (s : State) : ∃ g, exec i s = transaction s g := by
  cases i <;>
    simp only [exec, execPack565, execUnpack565, execIdxpack, execIdxunpack, execWrblk, execWrite3, execWrite4,
      execPalette, execDecomp] <;>
    exact ⟨_, rfl⟩

/-- While `FSR.F = 1` every operation is refused (60_exceptions.md R187). -/
theorem exec_of_latched {s : State} (h : s.fsr.f = true) (i : Instr) : exec i s = .next (refuse s) := by
  obtain ⟨g, hg⟩ := exec_is_transaction i s
  rw [hg, transaction_of_latched h]

/-- An operation that runs either raises `BAD_LENGTH` or `SINK_CHANNELS`, or answers `OK`. -/
theorem exec_of_clear {s : State} (h : s.fsr.f = false) (i : Instr) :
    exec i s = .next (raiseContractFault s .badLength) ∨
    exec i s = .next (raiseContractFault s .sinkChannels) ∨
    ∃ r : Response, r.st = some .ok ∧ exec i s = .next (respond s r) := by
  cases i with
  | unpack565 b l c =>
    rw [exec_unpack565 h]
    split
    · exact .inl rfl
    · exact .inr (.inr ⟨_, rfl, rfl⟩)
  | decomp b l c =>
    rw [exec_decomp h]
    split
    · exact .inl rfl
    · split
      · exact .inr (.inl rfl)
      · exact .inr (.inr ⟨_, rfl, rfl⟩)
  | pack565 b l c => exact .inr (.inr ⟨_, rfl, exec_pack565 h b l c⟩)
  | idxpack b l c => exact .inr (.inr ⟨_, rfl, exec_idxpack h b l c⟩)
  | idxunpack b l c => exact .inr (.inr ⟨_, rfl, exec_idxunpack h b l c⟩)
  | wrblk b l c => exact .inr (.inr ⟨_, rfl, exec_wrblk h b l c⟩)
  | write3 b l c => exact .inr (.inr ⟨_, rfl, exec_write3 h b l c⟩)
  | write4 b l c => exact .inr (.inr ⟨_, rfl, exec_write4 h b l c⟩)
  | palette b l c => exact .inr (.inr ⟨_, rfl, exec_palette h b l c⟩)

/-- No operation stops the machine (60_exceptions.md R196, 70_reset_and_hazards.md R217). -/
theorem exec_answers_next (i : Instr) (s : State) : ∃ t, exec i s = .next t := by
  cases h : s.fsr.f
  · obtain h | h | ⟨r, -, h⟩ := exec_of_clear h i <;> exact ⟨_, h⟩
  · exact ⟨_, exec_of_latched h i⟩

theorem transact_of_latched {s : State} (h : s.fsr.f = true) : transact s = .next (refuse s) := by
  simp [transact, h]

theorem transact_of_illegal {s : State} (h : s.fsr.f = false) {e : DecodeError}
    (hd : decode s.cmd.hdr = .illegal e) : transact s = .next (raiseContractFault s .illegalCmd) := by
  simp [transact, h, hd]

/-- A header that decodes runs its instruction, whatever `FSR.F` is: `exec` makes the same refusal test. -/
theorem transact_of_instr {s : State} {i : Instr} (hd : decode s.cmd.hdr = .instr i) : transact s = exec i s := by
  cases h : s.fsr.f
  · simp [transact, h, hd]
  · rw [transact_of_latched h, exec_of_latched h]

/-- Everything a transaction can do: refuse, raise one of the three causes, or answer `OK`. -/
theorem transact_cases (s : State) :
    (s.fsr.f = true ∧ transact s = .next (refuse s)) ∨
    (s.fsr.f = false ∧ ∃ c, c ≠ .noFault ∧ transact s = .next (raiseContractFault s c)) ∨
    (s.fsr.f = false ∧ ∃ r : Response, r.st = some .ok ∧ transact s = .next (respond s r)) := by
  cases h : s.fsr.f
  · cases hd : decode s.cmd.hdr with
    | illegal e => exact .inr (.inl ⟨rfl, _, by decide, transact_of_illegal h hd⟩)
    | instr i =>
      rw [transact_of_instr hd]
      obtain h' | h' | h' := exec_of_clear h i
      · exact .inr (.inl ⟨rfl, _, by decide, h'⟩)
      · exact .inr (.inl ⟨rfl, _, by decide, h'⟩)
      · exact .inr (.inr ⟨rfl, h'⟩)
  · exact .inl ⟨rfl, transact_of_latched h⟩

theorem transact_answers_next (s : State) : ∃ t, transact s = .next t := by
  obtain ⟨-, h⟩ | ⟨-, c, -, h⟩ | ⟨-, r, -, h⟩ := transact_cases s <;> exact ⟨_, h⟩

theorem step_idle {s : State} (h : s.host = []) : step s = .next s := by simp [step, hostAction, h]

theorem step_command {s : State} {c : Command} {es : List HostEvent} (h : s.host = .command c :: es) :
    step s = transact (sample s c es) := by simp [step, hostAction, h]

/-- A presented command whose header decodes runs its instruction on the sampled ports. -/
theorem step_command_instr {s : State} {c : Command} {es : List HostEvent} {i : Instr} (h : s.host = .command c :: es)
    (hd : decode c.hdr = .instr i) : step s = exec i (sample s c es) := by
  rw [step_command h]
  exact transact_of_instr (s := sample s c es) hd

theorem step_command_illegal {s : State} {c : Command} {es : List HostEvent} {e : DecodeError}
    (h : s.host = .command c :: es) (hf : s.fsr.f = false) (hd : decode c.hdr = .illegal e) :
    step s = .next (raiseContractFault (sample s c es) .illegalCmd) := by
  rw [step_command h]
  exact transact_of_illegal (s := sample s c es) hf hd

theorem step_command_latched {s : State} {c : Command} {es : List HostEvent} (h : s.host = .command c :: es)
    (hf : s.fsr.f = true) : step s = .next (refuse (sample s c es)) := by
  rw [step_command h]
  exact transact_of_latched (s := sample s c es) hf

theorem step_feedBlk {s : State} {hdr : Header} {es : List HostEvent} (h : s.host = .feedBlk hdr :: es) :
    step s = transact (sample s (fedCommand s hdr) es) := by simp [step, hostAction, h]

theorem step_feedBlk_instr {s : State} {hdr : Header} {es : List HostEvent} {i : Instr} (h : s.host = .feedBlk hdr :: es)
    (hd : decode hdr = .instr i) : step s = exec i (sample s (fedCommand s hdr) es) := by
  rw [step_feedBlk h]
  exact transact_of_instr (s := sample s (fedCommand s hdr) es) hd

theorem step_reset {s : State} {es : List HostEvent} (h : s.host = .reset :: es) :
    step s = .next (applyReset { s with host := es }) := by simp [step, hostAction, h]

/-- A transaction that reset abandons leaves a prefix of the sink writes it was issuing. -/
theorem step_resetDuring {s t : State} {c : Command} {es : List HostEvent} (h : s.host = .resetDuring c :: es)
    (ht : transact (sample s c es) = .next t) :
    step s = .next (abandon (sample s c es) (t.rsp.sink.getD [])) := by
  simp [step, hostAction, h, ht, abandonWhile]

end Sys2Proof.Machine
end

