-- ==== Sys2Proof/Tests/Slice0.lean ====
section
/-!
SUPPORT. Tests of the model against values the spec writes out (spec 95_test_vectors.md and the examples of the rules), and
for every statement with hypotheses a witness that meets them.
-/
namespace Sys2Proof.Tests

open Sys2Proof Sys2Proof.Machine

/-! ## Well-formedness: an ill-formed term for each check -/

theorem test_len_16_is_ill_formed : (Instr.unpack565 false 16 0).wellFormed = false := by decide
theorem test_sink_ch_16_is_ill_formed : (Instr.decomp true 8 16).wellFormed = false := by decide
theorem test_counts_of_15_are_well_formed : (Instr.pack565 true 15 15).wellFormed = true := by decide

/-! ## Decoding: one word per operation, its bits written out from 30_encoding.md R61 (sink_ch len rsvd is_bc1 op) -/

theorem test_decode_pack565 : decode 0b0000_0000_000_0_0001 = .instr (.pack565 false 0 0) := by decide
theorem test_decode_unpack565 : decode 0b0000_0010_000_0_0010 = .instr (.unpack565 false 2 0) := by decide
theorem test_decode_idxpack : decode 0b0000_0000_000_1_0011 = .instr (.idxpack true 0 0) := by decide
theorem test_decode_idxunpack : decode 0b0001_0000_000_0_0100 = .instr (.idxunpack false 0 1) := by decide
theorem test_decode_wrblk : decode 0b0000_0001_000_0_0101 = .instr (.wrblk false 1 0) := by decide
theorem test_decode_write3 : decode 0b0000_0000_000_0_0110 = .instr (.write3 false 0 0) := by decide
theorem test_decode_write4 : decode 0b0000_0000_000_0_0111 = .instr (.write4 false 0 0) := by decide
theorem test_decode_palette : decode 0b0000_0000_000_1_1000 = .instr (.palette true 0 0) := by decide
theorem test_decode_decomp : decode 0b0100_1000_000_1_1001 = .instr (.decomp true 8 4) := by decide

theorem test_reserved_op_is_refused_by_name :
    decode 0x0000 = .illegal .reservedOp ∧ decode 0x000A = .illegal .reservedOp ∧
    decode 0x000F = .illegal .reservedOp := by decide

theorem test_rsvd_is_refused_by_name :
    decode 0x0021 = .illegal .rsvdNotZero ∧ decode 0x0041 = .illegal .rsvdNotZero ∧
    decode 0x0081 = .illegal .rsvdNotZero := by decide

/-- Encoding gives the headers of R69 and R86. -/
theorem test_encode_words :
    encode (sourceInstr (.decompress true)) = 0x4819 ∧ encode (.decomp false 8 3) = 0x3809 ∧
    encode (sourceInstr .unpack565) = 0x0202 ∧ encode (.palette true 0 0) = 0x0018 := by decide

/-- No two rows of the operation table overlap: they differ under the common part of their masks. -/
theorem test_opcode_rows_do_not_overlap :
    opcodeTable.Pairwise (fun r t => r.pattern &&& t.mask ≠ t.pattern &&& r.mask) := by decide

/-! ## One step on a small state -/

def quietOps : Operands := Command.undriven.ops

/-- The state right after reset with one command presented. -/
def presented (hdr : Header) (ops : Operands) : State := present State.reset { hdr := hdr, ops := ops }

/-- The state a step leads to (the step never stops). -/
def after (s : State) : State :=
  match step s with
  | .next t => t
  | .fault _ => s
  | .refused _ => s

/-- Three binary32 words as a colour port. -/
def colour (r g b : FloatWord) : Colour := b ++ g ++ r

/-- 95_test_vectors.md section 2.1: (word, quant 31, quant 63). -/
theorem test_quant_table :
    ([(0x00000000, 0, 0), (0x80000000, 0, 0), (0x00000001, 0, 0), (0x007FFFFF, 0, 0), (0x3C842108, 0, 1),
      (0x3C842109, 1, 1), (0x3C020820, 0, 0), (0x3C020821, 0, 1), (0x3DCCCCCD, 3, 6), (0x3E4CCCCD, 6, 13),
      (0x3E77BDEF, 7, 15), (0x3E77BDF0, 8, 15), (0x3E800000, 8, 16), (0x3E99999A, 9, 19), (0x3EA69A69, 10, 20),
      (0x3EA69A6A, 10, 21), (0x3EAAAAAB, 10, 21), (0x3ECCCCCD, 12, 25), (0x3EFFFFFF, 15, 31), (0x3F000000, 16, 32),
      (0x3F19999A, 19, 38), (0x3F333333, 22, 44)] : List (FloatWord × Nat × Nat)).all
      (fun t => quant t.1 31 == t.2.1 && quant t.1 63 == t.2.2) = true := by decide

theorem test_quant_table_upper_half :
    ([(0x3F400000, 23, 47), (0x3F666666, 28, 57), (0x3F7AE148, 30, 62), (0x3F7BDEF7, 30, 62), (0x3F7BDEF8, 31, 62),
      (0x3F7D70A4, 31, 62), (0x3F7DF7DF, 31, 62), (0x3F7DF7E0, 31, 63), (0x3F7FFFFF, 31, 63), (0x3F800000, 31, 63),
      (0x3F800001, 31, 63), (0x40000000, 31, 63), (0x7F7FFFFF, 31, 63), (0x7F800000, 31, 63), (0xBF000000, 0, 0),
      (0xBF800000, 0, 0), (0xFF7FFFFF, 0, 0), (0xFF800000, 0, 0), (0x7FC00000, 0, 0), (0xFFC00000, 0, 0),
      (0x7F800001, 0, 0)] : List (FloatWord × Nat × Nat)).all
      (fun t => quant t.1 31 == t.2.1 && quant t.1 63 == t.2.2) = true := by decide

/-- The expansion tables of 40_endpoint_packer.md R88. -/
theorem test_exp5_table : (List.range 32).map (fun n => (exp5 (BitVec.ofNat 5 n)).toNat) =
    [0, 8, 16, 24, 33, 41, 49, 57, 66, 74, 82, 90, 99, 107, 115, 123, 132, 140, 148, 156, 165, 173, 181, 189, 198, 206,
     214, 222, 231, 239, 247, 255] := by decide

theorem test_exp6_table : (List.range 64).map (fun n => (exp6 (BitVec.ofNat 6 n)).toNat) =
    [0, 4, 8, 12, 16, 20, 24, 28, 32, 36, 40, 44, 48, 52, 56, 60, 65, 69, 73, 77, 81, 85, 89, 93, 97, 101, 105, 109, 113,
     117, 121, 125, 130, 134, 138, 142, 146, 150, 154, 158, 162, 166, 170, 174, 178, 182, 186, 190, 195, 199, 203, 207,
     211, 215, 219, 223, 227, 231, 235, 239, 243, 247, 251, 255] := by decide

/-- 95_test_vectors.md section 2.2, the row (0.2, 0.4, 0.6). -/
theorem test_pack565 :
    (after (presented 0x0001 { quietOps with ca := colour 0x3E4CCCCD 0x3ECCCCCD 0x3F19999A })).rsp =
      { st := some .ok, q := some 0x3333 } := by decide

/-- The row (NaN, +inf, -inf). -/
theorem test_pack565_specials : pack (colour 0x7FC00000 0x7F800000 0xFF800000) = 0x07E0 := by decide

/-- 95_test_vectors.md section 2.3, the row `34 12`, with other bytes behind the two. -/
theorem test_unpack565 :
    (after (presented 0x0202 { quietOps with blk := 0xFFFFFFFFFFFF1234 })).rsp =
      { st := some .ok, rgba := some 0xFFA54510 } := by decide

/-- 95_test_vectors.md section 2.9, header 0x0302. -/
theorem test_unpack565_bad_length : fsrWord (after (presented 0x0302 quietOps)).fsr = 0x03020005 := by decide

/-- 95_test_vectors.md section 2.4. -/
theorem test_idxpack :
    (after (presented 0x0003 { quietOps with idx := 0xFA501BE4 })).rsp = { st := some .ok, oidx := some 0xFA501BE4 } := by
  decide

/-- The example of 41_block_serializer.md R101: index 0 is 3, index 15 is 2, every other index 0. -/
theorem test_idxunpack_lanes :
    (List.finRange 16).map (unpackIndices 0x80000003) = [3, 0, 0, 0, 0, 0, 0, 0, 0, 0, 0, 0, 0, 0, 0, 2] := by decide

theorem test_idxunpack :
    (after (presented 0x0004 { quietOps with idx := 0x80000003 })).rsp = { st := some .ok, oidx := some 0x80000003 } := by
  decide

/-- 95_test_vectors.md section 2.5, first row: bytes `34 12 CD AB 03 00 00 80`. -/
theorem test_wrblk :
    (after (presented 0x0005 { quietOps with ea := 0x1234, eb := 0xABCD, idx := 0x80000003 })).rsp =
      { st := some .ok, oblk := some 0x80000003ABCD1234 } := by decide

/-- 95_test_vectors.md section 2.6, row 5: the swap keeps index 3; bytes `33 33 03 E4 E1 4B 55 00`. -/
theorem test_write3_swap :
    (after (presented 0x0006 { quietOps with
      ca := colour 0x3F666666 0x3F000000 0x3DCCCCCD, cb := colour 0x3E4CCCCD 0x3ECCCCCD 0x3F19999A,
      idx := 0x55001BE4 })).rsp = { st := some .ok, oblk := some 0x00554BE1E4033333 } := by decide

/-- Row 2 of that table: ascending endpoints are stored as given. -/
theorem test_write3_as_given :
    write3Block 0 (colour 0x3F800000 0 0) (fun _ => 0) = 0x00000000F8000000 := by decide

/-- 95_test_vectors.md section 2.7, row 3: bytes `03 E4 33 33 B1 4E 05 AF`. -/
theorem test_write4_swap :
    (after (presented 0x0007 { quietOps with
      ca := colour 0x3E4CCCCD 0x3ECCCCCD 0x3F19999A, cb := colour 0x3F666666 0x3F000000 0x3DCCCCCD,
      idx := 0xFA501BE4 })).rsp = { st := some .ok, oblk := some 0xAF054EB13333E403 } := by decide

/-- Row 5: equal packed endpoints force the index word to zero. -/
theorem test_write4_equal : write4Block 0 0 (fun _ => 3) = 0 := by decide

/-- 95_test_vectors.md section 2.8, the row `1234` `ABCD`, BC1: slot 2 is (94, 95, 136, 255), slot 3 zero. -/
theorem test_palette_bc1 :
    (after (presented 0x0018 { quietOps with ea := 0x1234, eb := 0xABCD })).rsp =
      { st := some .ok, pal := some 0x00000000FF885F5EFF6B79ADFFA54510 } := by decide

/-- The same row, BC23: (68, 86, 145, 255) and (120, 103, 126, 255). -/
theorem test_palette_bc23 : palettePort (derivePalette 0x1234 0xABCD false) = 0xFF7E6778FF915644FF6B79ADFFA54510 := by
  decide

/-- 95_test_vectors.md section 2.10: the first nine sink writes and the last one of the BC1 decoding. -/
theorem test_decomp_sink_writes :
    ((tileWrites (blockPixel 0xFF00E41BABCD1234 true)).take 9 =
      [⟨0, 0, 0, 0⟩, ⟨0, 0, 1, 0⟩, ⟨0, 0, 2, 0⟩, ⟨0, 0, 3, 0⟩, ⟨1, 0, 0, 94⟩, ⟨1, 0, 1, 95⟩, ⟨1, 0, 2, 136⟩,
       ⟨1, 0, 3, 255⟩, ⟨2, 0, 0, 173⟩]) ∧
    (tileWrites (blockPixel 0xFF00E41BABCD1234 true))[63]? = some ⟨3, 3, 3, 0⟩ := by decide

/-- 95_test_vectors.md section 2.9: length before channels (header 0x3709), then channels (header 0x3809). -/
theorem test_decomp_faults :
    fsrWord (after (presented 0x3709 quietOps)).fsr = 0x37090005 ∧
    fsrWord (after (presented 0x3809 quietOps)).fsr = 0x38090007 ∧
    (after (presented 0x3809 quietOps)).sunk = [] := by decide

/-- 95_test_vectors.md section 2.9: an illegal header, and a command after a fault. -/
theorem test_illegal_then_refused :
    fsrWord (after (presented 0x000A quietOps)).fsr = 0x000A0003 ∧
    (after (present (after (presented 0x000A quietOps)) ⟨0x0001, quietOps⟩)).rsp = { st := some .refused } ∧
    fsrWord (after (present (after (presented 0x000A quietOps)) ⟨0x0001, quietOps⟩)).fsr = 0x000A0003 := by decide

/-- A table word runs as the first instruction after reset. -/
theorem test_fetch_word_runs :
    (after (State.reset.withFetchWord 16 0x0001)).rsp.st = some .ok ∧
    decodeTableWord 16 0x0001 = some (.pack565 false 0 0) := by decide

/-! ## Witnesses: every statement with hypotheses, at states and operands that meet all of them -/

/-- FSR after the fault of 95_test_vectors.md program 5. -/
def faulted : State := { State.reset with fsr := { f := true, cause := .sinkChannels, hdr := 0x3809 } }

theorem witness_DecodeOfEncodeIsTheInstruction : ∃ i : Instr, i.wellFormed = true := ⟨.decomp true 15 15, by decide⟩

theorem witness_DecodedHeaderIsItsEncoding : ∃ (h : Header) (i : Instr), decode h = .instr i :=
  ⟨0xFF19, .decomp true 15 15, by decide⟩

theorem witness_HeaderSelectsItsTableRow : ∃ row ∈ opcodeTable, ∃ h : Header, row.selects h = true :=
  ⟨⟨"DECOMP", 0x0009, 0x00EF⟩, by decide, 0x4819, by decide⟩

theorem witness_StepRunsTheDecodedInstruction :
    (∃ (s : State) (c : Command) (rest : List HostEvent) (i : Instr),
      s.host = .command c :: rest ∧ decode c.hdr = .instr i) ∧
    (∃ (s : State) (hdr : Header) (rest : List HostEvent) (i : Instr) (blk : Block),
      s.host = .feedBlk hdr :: rest ∧ decode hdr = .instr i ∧ s.rsp.oblk = some blk) :=
  ⟨⟨presented 0x0001 quietOps, ⟨0x0001, quietOps⟩, [], .pack565 false 0 0, rfl, by decide⟩,
   ⟨{ State.reset with host := [.feedBlk 0x4819], rsp := { st := some .ok, oblk := some 0 } }, 0x4819, [],
    .decomp true 8 4, 0, rfl, by decide, rfl⟩⟩

theorem witness_LatchedCoreRefusesEveryCommand :
    (∃ (s : State) (c : Command) (rest : List HostEvent), s.fsr.f = true ∧ s.host = .command c :: rest) ∧
    (∃ (s : State) (hdr : Header) (rest : List HostEvent), s.fsr.f = true ∧ s.host = .feedBlk hdr :: rest) :=
  ⟨⟨present faulted ⟨0, quietOps⟩, _, _, rfl, rfl⟩, ⟨{ faulted with host := [.feedBlk 0x4819] }, _, _, rfl, rfl⟩⟩

/-- A witness for each reason: op 0x0, op 0xA, and rsvd 1 under a legal op. -/
theorem witness_IllegalCommandRaisesContractFault :
    ∀ h ∈ [(0x0000 : Header), 0x000A, 0x0021], ∃ (s u : State) (c : Command) (rest : List HostEvent), s.fsr.f = false ∧
      s.host = .command c :: rest ∧ u.fsr.f = false ∧ u.host = .feedBlk c.hdr :: rest ∧ c.hdr = h ∧
      ((c.hdr.toNat % 16 = 0 ∨ 10 ≤ c.hdr.toNat % 16) ∨ c.hdr.toNat / 32 % 8 ≠ 0) := by
  intro h hm
  refine ⟨presented h quietOps, { State.reset with host := [.feedBlk h] }, ⟨h, quietOps⟩, [], rfl, rfl, rfl, rfl, rfl, ?_⟩
  revert hm
  revert h
  simp

theorem witness_EveryCommandIsAnswered : ∃ (s : State) (c : Command) (rest : List HostEvent), s.host = .command c :: rest :=
  ⟨presented 0xFFFF quietOps, _, _, rfl⟩

theorem witness_ResponseDependsOnCommandAndLatch :
    ∃ (s u : State) (c : Command) (rest rest' : List HostEvent), s ≠ u ∧
      s.host = .command c :: rest ∧ u.host = .command c :: rest' ∧ s.fsr.f = u.fsr.f :=
  ⟨presented 0x4819 quietOps, { presented 0x4819 quietOps with sunk := [⟨0, 0, 0, 0⟩] }, _, _, _, by decide, rfl, rfl, rfl⟩

/-- Two `DECOMP` commands that differ in a port it does not read, and two `PACK565` headers that differ in every field it does
not read. -/
theorem witness_UnreadFieldsAndPortsAreIgnored :
    (∃ c d : Command, c ≠ d ∧ decode c.hdr = .instr (.decomp true 8 4) ∧
      c.hdr &&& 0x00EF = d.hdr &&& 0x00EF ∧ sameOperandsRead (.decomp true 8 4) c d) ∧
    (∃ c d : Command, c ≠ d ∧ decode c.hdr = .instr (.pack565 false 0 0) ∧
      c.hdr &&& 0x00EF = d.hdr &&& 0x00EF ∧ sameOperandsRead (.pack565 false 0 0) c d) :=
  ⟨⟨⟨0x4819, quietOps⟩, ⟨0x4819, { quietOps with ea := 1 }⟩, by decide, by decide, rfl, rfl, rfl, rfl, rfl⟩,
   ⟨⟨0x0001, quietOps⟩, ⟨0xFF11, quietOps⟩, by decide, by decide, by decide, rfl⟩⟩

theorem witness_ResetClearsFsr :
    ∃ (s : State) (rest : List HostEvent), s.fsr.f = true ∧ s.host = .reset :: rest :=
  ⟨{ faulted with host := [.reset] }, [], rfl, rfl⟩

/-- A `DECOMP` that would have issued 64 writes is the one that reset abandons. -/
theorem witness_ResetDuringTransactionIssuesAPrefix :
    ∃ (s : State) (c : Command) (rest : List HostEvent), s.host = .resetDuring c :: rest ∧
      (after { s with host := .command c :: rest }).sunk.length = 64 :=
  ⟨{ State.reset with host := [.resetDuring ⟨0x4819, quietOps⟩] }, ⟨0x4819, quietOps⟩, [], rfl, by decide⟩

/-- A step of each of the three kinds. -/
theorem witness_OnlyFaultAndResetWriteFsr :
    (∃ s t : State, step s = .next t ∧ t.fsr = s.fsr) ∧
    (∃ s t : State, step s = .next t ∧ s.fsr.f = false ∧ t.fsr.f = true) ∧
    (∃ s t : State, step s = .next t ∧ s.fsr.f = true ∧ t.fsr.f = false) :=
  ⟨⟨State.reset, _, rfl, rfl⟩,
   ⟨presented 0 quietOps, _, step_command_illegal (e := .reservedOp) rfl rfl (by decide), rfl, rfl⟩,
   ⟨{ faulted with host := [.reset] }, _, step_reset rfl, rfl, rfl⟩⟩

theorem witness_LatchHoldsUntilReset :
    ∃ s : State, s.fsr.f = true ∧ s.host ≠ [] ∧ ∀ e ∈ s.host, assertsReset e = false :=
  ⟨present faulted ⟨0x0001, quietOps⟩, rfl, by decide, by decide⟩

theorem witness_ServedRunNeverFaulted :
    ∃ (s t : State), (∀ e ∈ s.host, assertsReset e = false) ∧ s.host ≠ [] ∧
      Host.Core.run Sys2Proof.core 1 s = .next t ∧ servedAll t :=
  ⟨presented 0x0001 quietOps, _, by decide, by decide,
   (run_succ ((step_command_instr (i := .pack565 false 0 0) rfl (by decide)).trans
     (exec_pack565 (s := sample (presented 0x0001 quietOps) ⟨0x0001, quietOps⟩ []) rfl _ _ _)) 0).trans (run_zero _),
   rfl, rfl⟩

theorem witness_StepKeepsTheStateLegal : ∃ s t : State, stateLegal s ∧ step s = .next t ∧ s ≠ t :=
  ⟨presented 0 quietOps, _,
   ⟨⟨fun _ => ⟨rfl, rfl⟩, fun h => nomatch h⟩, ⟨rfl, rfl, rfl, rfl, rfl, rfl, rfl⟩, rfl⟩,
   step_command_illegal (e := .reservedOp) rfl rfl (by decide), by decide⟩

/-- The smallest NaN pattern; the two infinities are the hypotheses of the other clauses as they stand. -/
theorem witness_FvalIsBinary32 :
    ∃ w : FloatWord, w.toNat / 2 ^ 23 % 256 = 255 ∧ w.toNat % 2 ^ 23 ≠ 0 := ⟨0x7F800001, by decide, by decide⟩

theorem floatRat_half : floatRat 0x3F000000 = some (1 / 2) := by
  have h1 : (0x3F000000 : FloatWord).getLsbD 31 = false := by decide
  have h2 : ((0x3F000000 : FloatWord).extractLsb' 23 8).toNat = 126 := by decide
  have h3 : ((0x3F000000 : FloatWord).extractLsb' 0 23).toNat = 0 := by decide
  simp only [floatRat, h1, h2, h3]
  norm_num [zpow_neg]

theorem witness_QuantRoundsAndSaturates :
    ∃ (w : FloatWord) (m : Nat) (v : ℚ), (m = 31 ∨ m = 63) ∧ floatRat w = some v :=
  ⟨0x3F000000, 63, 1 / 2, .inr rfl, floatRat_half⟩

theorem witness_QuantCountsThresholds :
    ∃ (w : FloatWord) (m k : Nat) (v : ℚ), (m = 31 ∨ m = 63) ∧ floatRat w = some v ∧ 1 ≤ k ∧ k ≤ m :=
  ⟨0x3F000000, 31, 31, 1 / 2, .inl rfl, floatRat_half, by decide, by decide⟩

theorem valueRat_half : valueRat (fval 0x3F000000) = some (1 / 2) := by
  have h : fval 0x3F000000 = .finite (2 ^ 23) (2 ^ 24) := by decide
  rw [h, valueRat]
  norm_num

theorem witness_TieOnlyAtOneHalf :
    ∀ m ∈ [31, 63], ∃ (w : FloatWord) (k : Nat) (v : ℚ), (m = 31 ∨ m = 63) ∧ k < m ∧ valueRat (fval w) = some v ∧
      v * (m : ℚ) = (k : ℚ) + 1 / 2 := by
  intro m hm
  simp only [List.mem_cons, List.not_mem_nil, or_false] at hm
  rcases hm with rfl | rfl
  · exact ⟨0x3F000000, 15, 1 / 2, .inl rfl, by decide, valueRat_half, by norm_num⟩
  · exact ⟨0x3F000000, 31, 1 / 2, .inr rfl, by decide, valueRat_half, by norm_num⟩

/-- The one hypothesis of the completion statements of `PACK565`, `IDXPACK`, `IDXUNPACK`, `WRBLK`, `WRITE3`, `WRITE4` and
`PALETTE`. -/
theorem witness_clear_latch : ∃ s : State, s.fsr.f = false := ⟨State.reset, rfl⟩

/-- Both clauses: the length required, and the ones on either side of it. -/
theorem witness_Unpack565ExpandsTwoBytes :
    ∃ (s : State) (l l' l'' : Nat) (v : Packed565), s.fsr.f = false ∧ l = 2 ∧ l' ≠ 2 ∧ l'' ≠ 2 ∧ l' < l ∧ l < l'' ∧
      v.toNat = (byteAt s.cmd.ops.blk 0).toNat + 256 * (byteAt s.cmd.ops.blk 1).toNat :=
  ⟨State.reset, 2, 1, 3, 0, rfl, rfl, by decide, by decide, by decide, by decide, by decide⟩

/-- The three orders of the packed endpoints, for `WRITE3` and `WRITE4` and their round trips. -/
theorem witness_Write3OrdersAndRelabels :
    (∃ s : State, s.fsr.f = false ∧ (pack s.cmd.ops.cb).toNat < (pack s.cmd.ops.ca).toNat) ∧
    (∃ s : State, s.fsr.f = false ∧ (pack s.cmd.ops.ca).toNat ≤ (pack s.cmd.ops.cb).toNat) :=
  ⟨⟨{ State.reset with cmd := ⟨0, { quietOps with ca := colour 0 0 0x3F800000 }⟩ }, rfl, by decide⟩,
   ⟨State.reset, rfl, by decide⟩⟩

theorem witness_Write4OrdersAndRelabels :
    (∃ s : State, s.fsr.f = false ∧ (pack s.cmd.ops.ca).toNat < (pack s.cmd.ops.cb).toNat) ∧
    (∃ s : State, s.fsr.f = false ∧ (pack s.cmd.ops.cb).toNat < (pack s.cmd.ops.ca).toNat) ∧
    (∃ s : State, s.fsr.f = false ∧ pack s.cmd.ops.ca = pack s.cmd.ops.cb) :=
  ⟨⟨{ State.reset with cmd := ⟨0, { quietOps with cb := colour 0 0 0x3F800000 }⟩ }, rfl, by decide⟩,
   ⟨{ State.reset with cmd := ⟨0, { quietOps with ca := colour 0 0 0x3F800000 }⟩ }, rfl, by decide⟩,
   ⟨State.reset, rfl, rfl⟩⟩

theorem witness_Write3BlockHasAAtMostB :
    ∃ (s t : State) (o : Block), exec (.write3 false 0 0) s = .next t ∧ t.rsp.oblk = some o :=
  ⟨State.reset, _, _, exec_write3 rfl _ _ _, rfl⟩

theorem witness_Write4BlockHasAAboveB :
    ∃ (s t : State) (o : Block), exec (.write4 false 0 0) s = .next t ∧ t.rsp.oblk = some o :=
  ⟨State.reset, _, _, exec_write4 rfl _ _ _, rfl⟩

/-- A state with two different colours and its exchange. -/
def exchanged (idx : IndexWord) : State :=
  { State.reset with cmd := ⟨0, { quietOps with ca := colour 0 0 0x3F800000, idx := idx }⟩ }

theorem witness_Write4IsSwapConsistent :
    ∃ s u : State, s.fsr.f = false ∧ u.fsr.f = false ∧ u.cmd.ops.ca = s.cmd.ops.cb ∧ u.cmd.ops.cb = s.cmd.ops.ca ∧
      u.cmd.ops.idx = s.cmd.ops.idx ^^^ 0x55555555 ∧ s.cmd.ops.ca ≠ s.cmd.ops.cb :=
  ⟨exchanged 0xE4E4E4E4,
   { State.reset with cmd := ⟨0, { quietOps with cb := colour 0 0 0x3F800000, idx := 0xB1B1B1B1 }⟩ },
   rfl, rfl, rfl, rfl, by decide, by decide⟩

theorem witness_Write3SwapLaw :
    (∃ s u : State, s.fsr.f = false ∧ u.fsr.f = false ∧ u.cmd.ops.ca = s.cmd.ops.cb ∧ u.cmd.ops.cb = s.cmd.ops.ca ∧
      (∀ p : Fin 16, indicesOfPort u.cmd.ops.idx p = remap3 (indicesOfPort s.cmd.ops.idx p)) ∧
      pack s.cmd.ops.ca ≠ pack s.cmd.ops.cb) ∧
    (∃ s u : State, s.fsr.f = false ∧ u.fsr.f = false ∧ u.cmd.ops.ca = s.cmd.ops.cb ∧ u.cmd.ops.cb = s.cmd.ops.ca ∧
      (∀ p : Fin 16, indicesOfPort u.cmd.ops.idx p = remap3 (indicesOfPort s.cmd.ops.idx p)) ∧
      pack s.cmd.ops.ca = pack s.cmd.ops.cb) :=
  ⟨⟨exchanged 0xE4E4E4E4,
    { State.reset with cmd := ⟨0, { quietOps with cb := colour 0 0 0x3F800000, idx := 0xE1E1E1E1 }⟩ },
    rfl, rfl, rfl, rfl, by decide, by decide⟩,
   ⟨State.reset, { State.reset with cmd := ⟨0, { quietOps with idx := 0x55555555 }⟩ },
    rfl, rfl, rfl, rfl, by decide, rfl⟩⟩

/-- Slot 2 in 3-colour mode, and slot 3 in 4-colour mode. -/
theorem witness_BlendsLieBetweenEndpoints :
    threeColour true 0x1234 0xABCD = true ∧ threeColour true 0xABCD 0x1234 = false ∧
    threeColour false 0x1234 0xABCD = false := by decide

theorem witness_EqualEndpointsPalette : ∃ s : State, s.fsr.f = false ∧ s.cmd.ops.ea = s.cmd.ops.eb :=
  ⟨State.reset, rfl, rfl⟩

/-- The hypotheses of the four statements about a `DECOMP` that completes: the least channel count. -/
theorem witness_DecompResolvesEveryPixel : ∃ (s : State) (c : Nat), s.fsr.f = false ∧ 4 ≤ c :=
  ⟨State.reset, 4, rfl, by decide⟩

/-- A punch-through pixel: BC1, A = B, index 3. -/
theorem witness_OnlyPunchThroughPixelsAreTransparent :
    ∃ (s : State) (p : Nat), s.fsr.f = false ∧ p < 16 ∧
      (s.cmd.ops.blk.extractLsb' 0 16).toNat ≤ (s.cmd.ops.blk.extractLsb' 16 16).toNat ∧
      wordIndex (s.cmd.ops.blk.extractLsb' 32 32) p = 3 :=
  ⟨{ State.reset with cmd := ⟨0, { quietOps with blk := 0xC000000000000000 }⟩ }, 15, rfl, by decide, by decide, by decide⟩

/-- Lengths beside 8, and the largest channel count that is too small. -/
theorem witness_DecompChecksLengthThenChannels :
    ∃ (s : State) (l l' l'' c : Nat), s.fsr.f = false ∧ l ≠ 8 ∧ l' ≠ 8 ∧ l'' = 8 ∧ c < 4 :=
  ⟨State.reset, 7, 9, 8, 3, rfl, by decide, by decide, rfl, by decide⟩

theorem witness_OnlyContractChecksFault :
    ∃ (s : State) (i : Instr), s.fsr.f = false ∧ mnemonic i ≠ "UNPACK565" ∧ mnemonic i ≠ "DECOMP" :=
  ⟨State.reset, .write3 false 0 0, rfl, by decide, by decide⟩

theorem witness_PortOnlyOperationsFrame :
    ∃ (s t : State) (i : Instr), mnemonic i = "IDXPACK" ∧ exec i s = .next t :=
  ⟨State.reset, _, .idxpack false 0 0, rfl, exec_idxpack rfl _ _ _⟩

theorem witness_BlockProducersFrame :
    ∃ (s t : State) (i : Instr), mnemonic i = "WRBLK" ∧ exec i s = .next t :=
  ⟨State.reset, _, .wrblk false 0 0, rfl, exec_wrblk rfl _ _ _⟩

theorem witness_CheckedOperationsFrame :
    ∃ (s t : State) (i : Instr), mnemonic i = "DECOMP" ∧ exec i s = .next t :=
  ⟨State.reset, _, .decomp true 8 4, rfl, exec_decomp rfl _ _ _⟩

theorem witness_Enc3decRoundTrip :
    ∃ (s : State) (ops : Operands) (rest : List HostEvent), s.fsr.f = false ∧ s.host = enc3dec ops ++ rest ∧
      wordIndex ops.idx 0 = 0 ∧ wordIndex ops.idx 1 = 1 ∧ wordIndex ops.idx 2 = 2 ∧ wordIndex ops.idx 3 = 3 :=
  ⟨{ State.reset with host := enc3dec { quietOps with idx := 0xE4 } }, { quietOps with idx := 0xE4 }, [], rfl, rfl,
   by decide, by decide, by decide, by decide⟩

theorem witness_Enc4decRoundTrip :
    (∃ (s : State) (b : Bool) (ops : Operands) (rest : List HostEvent), s.fsr.f = false ∧
      s.host = enc4dec b ops ++ rest ∧ pack ops.ca = pack ops.cb) ∧
    (∃ (s : State) (b : Bool) (ops : Operands) (rest : List HostEvent), s.fsr.f = false ∧
      s.host = enc4dec b ops ++ rest ∧ pack ops.ca ≠ pack ops.cb) :=
  ⟨⟨{ State.reset with host := enc4dec true quietOps }, true, quietOps, [], rfl, rfl, rfl⟩,
   ⟨{ State.reset with host := enc4dec false (exchanged 0xE4).cmd.ops }, false, (exchanged 0xE4).cmd.ops, [], rfl, rfl,
    by decide⟩⟩

end Sys2Proof.Tests
end

/-!
SUPPORT. What a step can do to the whole state, said once, and which result ports each operation drives
(spec 10_state.md R22, R24, R27; 30_encoding.md R63).
-/
namespace Sys2Proof.Machine

/-! ## What a step can do -/

/-- Everything a step can do: nothing, one transaction on the sampled ports, or a reset. -/
theorem step_cases {s t : State} (h : step s = .next t) :
    (s.host = [] ∧ t = s) ∨
    (∃ e es c, s.host = e :: es ∧ assertsReset e = false ∧ transact (sample s c es) = .next t) ∨
    (∃ e es, s.host = e :: es ∧ assertsReset e = true ∧ t.fsr = Fsr.cleared ∧ t.rsp = {}) := by
  cases hh : s.host with
  | nil =>
    rw [step_idle hh] at h
    cases h
    exact .inl ⟨rfl, rfl⟩
  | cons e es =>
    cases e with
    | command c =>
      rw [step_command hh] at h
      exact .inr (.inl ⟨_, _, c, rfl, rfl, h⟩)
    | feedBlk hdr =>
      rw [step_feedBlk hh] at h
      exact .inr (.inl ⟨_, _, fedCommand s hdr, rfl, rfl, h⟩)
    | reset =>
      rw [step_reset hh] at h
      cases h
      exact .inr (.inr ⟨_, _, rfl, rfl, rfl, rfl⟩)
    | resetDuring c =>
      obtain ⟨u, hu⟩ := transact_answers_next (sample s c es)
      rw [step_resetDuring hh hu] at h
      cases h
      exact .inr (.inr ⟨_, _, rfl, rfl, rfl, rfl⟩)

theorem fsrWord_cleared : fsrWord Fsr.cleared = 0 := by decide

/-- Settles O16: by what a step can do, and within a transaction by what a transaction can do. -/
theorem onlyFaultAndResetWriteFsr : Obligations.OnlyFaultAndResetWriteFsr := by
  intro s t h
  obtain ⟨-, rfl⟩ | ⟨e, es, c, -, -, ht⟩ | ⟨e, es, hh, he, hfsr, -⟩ := step_cases h
  · exact .inl rfl
  · obtain ⟨-, h'⟩ | ⟨hf, cause, hcause, h'⟩ | ⟨-, r, -, h'⟩ := transact_cases (sample s c es)
    · cases h'.symm.trans ht
      exact .inl rfl
    · cases h'.symm.trans ht
      exact .inr (.inl ⟨hf, rfl, rfl, hcause, rfl⟩)
    · cases h'.symm.trans ht
      exact .inl rfl
  · exact .inr (.inr ⟨e, es, hh, he, by rw [hfsr, fsrWord_cleared]⟩)

/-! ## The result ports of an operation -/

theorem length_tileWrites (f : Fin 16 → Rgba) : (tileWrites f).length = 64 := rfl

theorem decompResponse_drivesOneRow (blk : Block) (b : Bool) : drivesOneRow (decompResponse blk b) :=
  .inr (.inr (.inr (.inr (.inr ⟨_, _, _, _, rfl, length_tileWrites _⟩))))

/-- An operation that answers `OK` drives exactly the result ports of its row (30_encoding.md R63). -/
theorem exec_ok_drivesOneRow {s t : State} {i : Instr} (hf : s.fsr.f = false) (he : exec i s = .next t)
    (hok : t.rsp.st = some .ok) : drivesOneRow t.rsp := by
  cases i with
  | pack565 b l c => cases (exec_pack565 hf b l c).symm.trans he; exact .inl ⟨_, rfl⟩
  | idxpack b l c => cases (exec_idxpack hf b l c).symm.trans he; exact .inr (.inr (.inl ⟨_, rfl⟩))
  | idxunpack b l c => cases (exec_idxunpack hf b l c).symm.trans he; exact .inr (.inr (.inl ⟨_, rfl⟩))
  | wrblk b l c => cases (exec_wrblk hf b l c).symm.trans he; exact .inr (.inr (.inr (.inl ⟨_, rfl⟩)))
  | write3 b l c => cases (exec_write3 hf b l c).symm.trans he; exact .inr (.inr (.inr (.inl ⟨_, rfl⟩)))
  | write4 b l c => cases (exec_write4 hf b l c).symm.trans he; exact .inr (.inr (.inr (.inl ⟨_, rfl⟩)))
  | palette b l c => cases (exec_palette hf b l c).symm.trans he; exact .inr (.inr (.inr (.inr (.inl ⟨_, rfl⟩))))
  | unpack565 b l c =>
    rw [exec_unpack565 hf] at he
    split at he <;> cases he
    · cases hok
    · exact .inr (.inl ⟨_, rfl⟩)
  | decomp b l c =>
    rw [exec_decomp hf] at he
    split at he
    · cases he
      cases hok
    · split at he <;> cases he
      · cases hok
      · exact decompResponse_drivesOneRow _ _

theorem transact_ok_drivesOneRow {s t : State} (hf : s.fsr.f = false) (ht : transact s = .next t)
    (hok : t.rsp.st = some .ok) : drivesOneRow t.rsp := by
  cases hd : decode s.cmd.hdr with
  | illegal e =>
    cases (transact_of_illegal hf hd).symm.trans ht
    cases hok
  | instr i => exact exec_ok_drivesOneRow hf ((transact_of_instr hd).symm.trans ht) hok

/-! ## Legal states -/

theorem fsrLegal_cleared : fsrLegal Fsr.cleared := ⟨fun _ => ⟨rfl, rfl⟩, nofun⟩

/-- Only the status is driven. -/
theorem noResult_status (st : Option Status) : noResult { st := st } := ⟨rfl, rfl, rfl, rfl, rfl, rfl, rfl⟩

theorem stateLegal_of_cleared {t : State} (hfsr : t.fsr = Fsr.cleared) (hrsp : t.rsp = {}) : stateLegal t := by
  refine ⟨hfsr ▸ fsrLegal_cleared, ?_⟩
  rw [responseLegal, hrsp, hfsr]
  exact ⟨noResult_status none, rfl⟩

theorem stateLegal_refuse {s : State} (hf : s.fsr.f = true) (hl : fsrLegal s.fsr) : stateLegal (refuse s) :=
  ⟨hl, noResult_status _, hf⟩

theorem stateLegal_raiseContractFault (s : State) {c : Cause} (hc : c ≠ .noFault) :
    stateLegal (raiseContractFault s c) :=
  ⟨⟨nofun, fun _ => hc⟩, noResult_status _, rfl⟩

theorem stateLegal_of_ok {t : State} (hf : t.fsr.f = false) (hl : fsrLegal t.fsr) (hok : t.rsp.st = some .ok)
    (hrow : drivesOneRow t.rsp) : stateLegal t := by
  refine ⟨hl, ?_⟩
  rw [responseLegal, hok]
  exact ⟨hrow, hf⟩

/-- A transaction needs a legal FSR only: it drives the result ports afresh. -/
theorem transact_stateLegal {s t : State} (hl : fsrLegal s.fsr) (ht : transact s = .next t) : stateLegal t := by
  obtain ⟨hf, h⟩ | ⟨-, c, hc, h⟩ | ⟨hf, r, hok, h⟩ := transact_cases s
  · cases h.symm.trans ht
    exact stateLegal_refuse hf hl
  · cases h.symm.trans ht
    exact stateLegal_raiseContractFault s hc
  · have hrow := transact_ok_drivesOneRow hf h hok
    cases h.symm.trans ht
    exact stateLegal_of_ok hf hl hok hrow

/-- Settles O20: an idle step keeps the state, a transaction and a reset reach a legal one. -/
theorem stepKeepsTheStateLegal : Obligations.StepKeepsTheStateLegal := by
  rintro s t ⟨hl, hr⟩ h
  obtain ⟨-, rfl⟩ | ⟨e, es, c, -, -, ht⟩ | ⟨e, es, -, -, hfsr, hrsp⟩ := step_cases h
  · exact ⟨hl, hr⟩
  · exact transact_stateLegal (s := sample s c es) hl ht
  · exact stateLegal_of_cleared hfsr hrsp

/-- Settles O19: FSR is cleared and nothing is driven. -/
theorem resetStateIsLegal : Obligations.ResetStateIsLegal := stateLegal_of_cleared rfl rfl

/-- Settles O13: FSR is cleared and nothing is driven. -/
theorem resetStateIsClear : Obligations.ResetStateIsClear := ⟨fsrWord_cleared, rfl, noResult_status none⟩

/-! ## The register word: each field is one part of the concatenation -/

theorem fsrWord_flag (r : Fsr) : (fsrWord r).getLsbD 0 = r.f := by
  simp only [fsrWord, BitVec.getLsbD_append]
  simp

theorem fsrWord_cause (r : Fsr) : (fsrWord r).extractLsb' 1 2 = causeCode r.cause := by
  rw [fsrWord, BitVec.extractLsb'_append_eq_of_le (by decide), BitVec.extractLsb'_append_eq_of_add_le (by decide)]
  simp

theorem fsrWord_reserved (r : Fsr) : (fsrWord r).extractLsb' 3 13 = 0 := by
  rw [fsrWord, BitVec.extractLsb'_append_eq_of_le (by decide), BitVec.extractLsb'_append_eq_of_le (by decide),
    BitVec.extractLsb'_append_eq_of_add_le (by decide)]
  simp

theorem fsrWord_hdr (r : Fsr) : (fsrWord r).extractLsb' 16 16 = r.hdr := by
  rw [fsrWord, BitVec.extractLsb'_append_eq_of_le (by decide), BitVec.extractLsb'_append_eq_of_le (by decide),
    BitVec.extractLsb'_append_eq_of_le (by decide)]
  simp

/-- Settles O12: field by field, with the code of each cause. -/
theorem fsrWordLayout : Obligations.FsrWordLayout := by
  intro r
  refine ⟨fsrWord_flag r, ?_, fsrWord_reserved r, fsrWord_hdr r⟩
  rw [fsrWord_cause]
  cases r.cause <;> rfl

/-! ## What a response depends on -/

/-- From `s` and from `u` the outcomes are next states with one response, and one list of sink writes was issued. -/
def answersAlike (s u : State) (x y : Out State) : Prop :=
  ∃ s' u' ws, x = .next s' ∧ y = .next u' ∧ s'.rsp = u'.rsp ∧ s'.sunk = s.sunk ++ ws ∧ u'.sunk = u.sunk ++ ws

theorem answersAlike_respond (s u : State) (r : Response) :
    answersAlike s u (.next (respond s r)) (.next (respond u r)) :=
  ⟨_, _, r.sink.getD [], rfl, rfl, rfl, rfl, rfl⟩

theorem answersAlike_refuse (s u : State) : answersAlike s u (.next (refuse s)) (.next (refuse u)) :=
  answersAlike_respond s u _

theorem answersAlike_raiseContractFault (s u : State) (c : Cause) :
    answersAlike s u (.next (raiseContractFault s c)) (.next (raiseContractFault u c)) :=
  ⟨_, _, [], rfl, rfl, rfl, rfl, rfl⟩

/-- An operation that runs reads the sampled command and nothing else of the state. -/
theorem exec_answersAlike {s u : State} (hs : s.fsr.f = false) (hu : u.fsr.f = false) (hc : u.cmd = s.cmd)
    (i : Instr) : answersAlike s u (exec i s) (exec i u) := by
  cases i with
  | pack565 b l c => rw [exec_pack565 hs, exec_pack565 hu, hc]; exact answersAlike_respond s u _
  | idxpack b l c => rw [exec_idxpack hs, exec_idxpack hu, hc]; exact answersAlike_respond s u _
  | idxunpack b l c => rw [exec_idxunpack hs, exec_idxunpack hu, hc]; exact answersAlike_respond s u _
  | wrblk b l c => rw [exec_wrblk hs, exec_wrblk hu, hc]; exact answersAlike_respond s u _
  | write3 b l c => rw [exec_write3 hs, exec_write3 hu, hc]; exact answersAlike_respond s u _
  | write4 b l c => rw [exec_write4 hs, exec_write4 hu, hc]; exact answersAlike_respond s u _
  | palette b l c => rw [exec_palette hs, exec_palette hu, hc]; exact answersAlike_respond s u _
  | unpack565 b l c =>
    rw [exec_unpack565 hs, exec_unpack565 hu, hc]
    split
    · exact answersAlike_raiseContractFault s u _
    · exact answersAlike_respond s u _
  | decomp b l c =>
    rw [exec_decomp hs, exec_decomp hu, hc]
    split
    · exact answersAlike_raiseContractFault s u _
    · split
      · exact answersAlike_raiseContractFault s u _
      · exact answersAlike_respond s u _

theorem transact_answersAlike {s u : State} (hc : u.cmd = s.cmd) (hf : s.fsr.f = u.fsr.f) :
    answersAlike s u (transact s) (transact u) := by
  cases hs : s.fsr.f with
  | true =>
    rw [transact_of_latched hs, transact_of_latched (hf ▸ hs)]
    exact answersAlike_refuse s u
  | false =>
    have hu : u.fsr.f = false := hf ▸ hs
    cases hd : decode s.cmd.hdr with
    | illegal e =>
      rw [transact_of_illegal hs hd, transact_of_illegal hu (hc ▸ hd)]
      exact answersAlike_raiseContractFault s u _
    | instr i =>
      rw [transact_of_instr hd, transact_of_instr (hc ▸ hd)]
      exact exec_answersAlike hs hu hc i

/-- Settles O10: the two sampled states agree on the command and on the latch. -/
theorem responseDependsOnCommandAndLatch : Obligations.ResponseDependsOnCommandAndLatch := by
  intro s u c rest rest' hs hu hf
  rw [step_command hs, step_command hu]
  exact transact_answersAlike (s := sample s c rest) (u := sample u c rest') rfl hf

/-! ## Frames -/

/-- `PACK565`, `IDXPACK`, `IDXUNPACK` and `PALETTE` only respond, refused or not, and leave the block, pixel and sink ports
undriven (30_encoding.md R63). -/
theorem exec_portOnly {i : Instr}
    (hi : mnemonic i = "PACK565" ∨ mnemonic i = "IDXPACK" ∨ mnemonic i = "IDXUNPACK" ∨ mnemonic i = "PALETTE")
    (s : State) :
    ∃ r : Response, exec i s = .next (respond s r) ∧
      r.oblk = none ∧ r.sink = none ∧ r.pix = none ∧ r.rgba = none := by
  cases hf : s.fsr.f with
  | true => exact ⟨_, exec_of_latched hf i, rfl, rfl, rfl, rfl⟩
  | false =>
    cases i with
    | pack565 b l c => exact ⟨_, exec_pack565 hf b l c, rfl, rfl, rfl, rfl⟩
    | idxpack b l c => exact ⟨_, exec_idxpack hf b l c, rfl, rfl, rfl, rfl⟩
    | idxunpack b l c => exact ⟨_, exec_idxunpack hf b l c, rfl, rfl, rfl, rfl⟩
    | palette b l c => exact ⟨_, exec_palette hf b l c, rfl, rfl, rfl, rfl⟩
    | unpack565 | wrblk | write3 | write4 | decomp => simp [mnemonic] at hi

/-- `WRBLK`, `WRITE3` and `WRITE4` only respond, refused or not, and drive no result port but `OBLK`. -/
theorem exec_blockProducer {i : Instr}
    (hi : mnemonic i = "WRBLK" ∨ mnemonic i = "WRITE3" ∨ mnemonic i = "WRITE4") (s : State) :
    ∃ st oblk, exec i s = .next (respond s { st := st, oblk := oblk }) := by
  cases hf : s.fsr.f with
  | true => exact ⟨some .refused, none, exec_of_latched hf i⟩
  | false =>
    cases i with
    | wrblk b l c => exact ⟨_, _, exec_wrblk hf b l c⟩
    | write3 b l c => exact ⟨_, _, exec_write3 hf b l c⟩
    | write4 b l c => exact ⟨_, _, exec_write4 hf b l c⟩
    | pack565 | unpack565 | idxpack | idxunpack | palette | decomp => simp [mnemonic] at hi

/-- Settles O49: each of the four only responds, without sink writes. -/
theorem portOnlyOperationsFrame : Obligations.PortOnlyOperationsFrame := by
  intro s t i hi he
  obtain ⟨r, hr, hoblk, hsink, hpix, hrgba⟩ := exec_portOnly hi s
  cases hr.symm.trans he
  rw [respond_without_sink s r hsink]
  exact ⟨rfl, rfl, rfl, rfl, rfl, hoblk, hsink, hpix, hrgba⟩

/-- Settles O50: each of the three only responds, without sink writes. -/
theorem blockProducersFrame : Obligations.BlockProducersFrame := by
  intro s t i hi he
  obtain ⟨st, oblk, hr⟩ := exec_blockProducer hi s
  cases hr.symm.trans he
  rw [respond_without_sink s _ rfl]
  exact ⟨rfl, rfl, rfl, rfl, rfl, rfl⟩

end Sys2Proof.Machine

/-!
SUPPORT. The views of a block as bytes, words and fields (spec 20_memory.md R41 to R44), and the frame of the two
operations that check their contract (R46, R47; 60_exceptions.md R186).
-/
namespace Sys2Proof.Machine

/-! ## The views of a block -/

/-- A wide read is little-endian: the byte at its lowest offset is its low digit, base 256 (R42). -/
theorem toNat_memRead_succ (b : Block) (k n : Nat) :
    (memRead b k (n + 1)).toNat = (byteAt b k).toNat + 256 * (memRead b (k + 1) n).toNat := by
  change (memRead b (k + 1) n ++ byteAt b k).toNat = _
  rw [BitVec.toNat_append, ← Nat.shiftLeft_add_eq_or_of_lt (byteAt b k).isLt, Nat.shiftLeft_eq]
  omega

theorem toNat_memRead_two (b : Block) (k : Nat) :
    (memRead b k 2).toNat = (byteAt b k).toNat + 256 * (byteAt b (k + 1)).toNat := by
  rw [toNat_memRead_succ, toNat_memRead_succ]
  rfl

/-- A field that lies inside a field of a word is a field of the word. -/
theorem extractLsb'_extractLsb'_of_add_le {w : Nat} (x : BitVec w) {k m i n : Nat} (h : i + n ≤ m) :
    (x.extractLsb' k m).extractLsb' i n = x.extractLsb' (k + i) n := by
  ext j hj
  simp only [BitVec.getElem_extractLsb', BitVec.getLsbD_extractLsb', Nat.add_assoc, show i + j < m by omega,
    decide_true, Bool.true_and]

/-- Index p of a block is bits `[33+2p:32+2p]` of its 64-bit view (R44). -/
theorem indicesOfPort_memRead (b : Block) (p : Fin 16) :
    indicesOfPort (memRead b 4 4) p = b.extractLsb' (32 + 2 * p.val) 2 := by
  rw [indicesOfPort, memRead_eq_extractLsb', extractLsb'_extractLsb'_of_add_le _ (by omega)]

/-- Index p of a block is one lane of the index byte it lies in (R41, R43). -/
theorem indicesOfPort_memRead_eq_lane (b : Block) (p : Fin 16) :
    indicesOfPort (memRead b 4 4) p = (byteAt b (4 + p.val / 4)).extractLsb' (2 * (p.val % 4)) 2 := by
  rw [indicesOfPort_memRead, byteAt, extractLsb'_extractLsb'_of_add_le _ (by omega),
    show 8 * (4 + p.val / 4) + 2 * (p.val % 4) = 32 + 2 * p.val by omega]

/-- A 2-bit lane of a byte is a digit of it, base 4. -/
theorem toNat_byte_lane (v : Byte) (j : Nat) : (v.extractLsb' (2 * j) 2).toNat = v.toNat / 4 ^ j % 4 := by
  rw [BitVec.extractLsb'_toNat, Nat.shiftRight_eq_div_pow, pow_mul]
  norm_num

/-- Settles O28: a wide read is both the digits of its bytes and a field of the 64-bit view. -/
theorem mixedWidthViewsAgree : Obligations.MixedWidthViewsAgree := fun v =>
  ⟨toNat_memRead_two v 0, memRead_eq_extractLsb' v 2 0, toNat_memRead_two v 2, memRead_eq_extractLsb' v 2 2,
    fun p => ⟨indicesOfPort_memRead v p, by rw [indicesOfPort_memRead_eq_lane, toNat_byte_lane]⟩⟩

/-! ## The frame of `UNPACK565` and `DECOMP` -/

/-- `UNPACK565` and `DECOMP` refuse, raise a cause, or answer `OK` without a block or a packed colour; `UNPACK565` has
no sink writes (30_encoding.md R63). -/
theorem exec_checked {i : Instr} (hi : mnemonic i = "UNPACK565" ∨ mnemonic i = "DECOMP") (s : State) :
    exec i s = .next (refuse s) ∨
    (∃ c, exec i s = .next (raiseContractFault s c)) ∨
    ∃ r : Response, exec i s = .next (respond s r) ∧ r.st = some .ok ∧ r.oblk = none ∧ r.q = none ∧
      (mnemonic i = "UNPACK565" → r.sink = none) := by
  cases hf : s.fsr.f with
  | true => exact .inl (exec_of_latched hf i)
  | false =>
    cases i with
    | unpack565 b l c =>
      rw [exec_unpack565 hf]
      split
      · exact .inr (.inl ⟨_, rfl⟩)
      · exact .inr (.inr ⟨_, rfl, rfl, rfl, rfl, fun _ => rfl⟩)
    | decomp b l c =>
      rw [exec_decomp hf]
      split
      · exact .inr (.inl ⟨_, rfl⟩)
      · split
        · exact .inr (.inl ⟨_, rfl⟩)
        · exact .inr (.inr ⟨_, rfl, rfl, rfl, rfl, by simp [mnemonic]⟩)
    | pack565 | idxpack | idxunpack | wrblk | write3 | write4 | palette => simp [mnemonic] at hi

/-- Settles O51: a refusal and a fault drive no result port, and only a fault writes FSR. -/
theorem checkedOperationsFrame : Obligations.CheckedOperationsFrame := by
  intro s t i hi he
  obtain hr | ⟨c, hr⟩ | ⟨r, hr, hok, hoblk, hq, hsink⟩ := exec_checked hi s
  · cases hr.symm.trans he
    simp [noResult_status]
  · cases hr.symm.trans he
    simp [noResult_status]
  · cases hr.symm.trans he
    refine ⟨rfl, rfl, rfl, hoblk, hq, fun _ => rfl, fun h => absurd hok h, rfl, fun h => ?_⟩
    simp [hsink h]

end Sys2Proof.Machine

/-!
SUPPORT. The fields of a header, what the decoder reads from them and what the encoder writes to them (spec
30_encoding.md R61 to R65).
-/
namespace Sys2Proof

/-! ## The fields of a header as digits, and a header as its fields -/

theorem toNat_headerOp (h : Header) : (headerOp h).toNat = h.toNat % 16 := rfl

theorem toNat_headerRsvd (h : Header) : (headerRsvd h).toNat = h.toNat / 32 % 8 := by
  rw [headerRsvd, BitVec.extractLsb'_toNat, Nat.shiftRight_eq_div_pow]

theorem headerLen_lt (h : Header) : headerLen h < 16 := (h.extractLsb' 8 4).isLt

theorem headerSinkCh_lt (h : Header) : headerSinkCh h < 16 := (h.extractLsb' 12 4).isLt

theorem ofBool_headerIsBc1 (h : Header) : BitVec.ofBool (headerIsBc1 h) = h.extractLsb' 4 1 := by
  rw [headerIsBc1, BitVec.getLsbD_eq_extractLsb']
  generalize h.extractLsb' 4 1 = b
  revert b
  decide

/-- A header is its five fields, high bits first (R61). -/
theorem header_eq_append (h : Header) :
    BitVec.ofNat 4 (headerSinkCh h) ++ BitVec.ofNat 4 (headerLen h) ++ headerRsvd h ++
      BitVec.ofBool (headerIsBc1 h) ++ headerOp h = h := by
  have joins : ∀ {k m n : Nat}, h.extractLsb' (k + m) n ++ h.extractLsb' k m = h.extractLsb' k (n + m) :=
    BitVec.extractLsb'_append_extractLsb'_eq_extractLsb' rfl
  rw [ofBool_headerIsBc1, headerSinkCh, headerLen, headerRsvd, headerOp, BitVec.ofNat_toNat, BitVec.ofNat_toNat,
    BitVec.setWidth_eq, BitVec.setWidth_eq, joins (k := 8) (m := 4), joins (k := 5) (m := 3), joins (k := 4) (m := 1),
    joins (k := 0) (m := 4)]
  exact BitVec.extractLsb'_eq_self

/-! ## What the decoder reads -/

/-- The decoder reads `i` from a header exactly when `rsvd` is zero and the other fields are those of `i` (R61, R62). -/
theorem decode_eq_instr_iff (h : Header) (i : Instr) :
    decode h = .instr i ↔ headerRsvd h = 0 ∧ headerOp h = opCode i ∧ headerIsBc1 h = i.isBc1 ∧
      headerLen h = i.len ∧ headerSinkCh h = i.sinkCh := by
  constructor
  · intro hd
    unfold decode at hd
    split at hd
    · cases hd
    · rename_i hr
      have hr := not_not.mp hr
      split at hd <;> cases hd <;> rename_i hop <;> exact ⟨hr, BitVec.eq_of_toNat_eq hop, rfl, rfl, rfl⟩
  · rintro ⟨hr, hop, hb, hl, hc⟩
    cases i <;> simp [decode, hr, hop, hb, hl, hc, opCode, Instr.isBc1, Instr.len, Instr.sinkCh]

/-- The decoder reads no instruction exactly when `rsvd` is not zero or `op` is reserved (R64, R65). -/
theorem decode_illegal_iff (h : Header) :
    (∃ e, decode h = .illegal e) ↔ ((headerOp h).toNat = 0 ∨ 10 ≤ (headerOp h).toNat) ∨ headerRsvd h ≠ 0 := by
  unfold decode
  split
  case isTrue hr => exact iff_of_true ⟨_, rfl⟩ (.inr hr)
  case isFalse hr =>
    split
    case h_10 =>
      simp only [imp_false] at *
      exact iff_of_true ⟨_, rfl⟩ (.inl (by omega))
    all_goals exact iff_of_false nofun (by simp [not_not.mp hr, *])

/-! ## What the encoder writes -/

theorem headerOp_encode (i : Instr) : headerOp (encode i) = opCode i := BitVec.extractLsb'_append_eq_right

theorem headerIsBc1_encode (i : Instr) : headerIsBc1 (encode i) = i.isBc1 := by
  simp only [headerIsBc1, encode, BitVec.getLsbD_append]
  simp

theorem headerRsvd_encode (i : Instr) : headerRsvd (encode i) = 0 := by
  rw [headerRsvd, encode, BitVec.extractLsb'_append_eq_of_le (by decide), BitVec.extractLsb'_append_eq_of_le (by decide)]
  exact BitVec.extractLsb'_append_eq_right

theorem headerLen_encode (i : Instr) : headerLen (encode i) = i.len % 16 := by
  rw [headerLen, encode, BitVec.extractLsb'_append_eq_of_le (by decide), BitVec.extractLsb'_append_eq_of_le (by decide),
    BitVec.extractLsb'_append_eq_of_le (by decide)]
  exact congrArg BitVec.toNat BitVec.extractLsb'_append_eq_right

theorem headerSinkCh_encode (i : Instr) : headerSinkCh (encode i) = i.sinkCh % 16 := by
  rw [headerSinkCh, encode, BitVec.extractLsb'_append_eq_of_le (by decide),
    BitVec.extractLsb'_append_eq_of_le (by decide), BitVec.extractLsb'_append_eq_of_le (by decide)]
  exact congrArg BitVec.toNat BitVec.extractLsb'_append_eq_left

theorem wellFormed_iff (i : Instr) : i.wellFormed = true ↔ i.len ≤ 15 ∧ i.sinkCh ≤ 15 := by
  simp [Instr.wellFormed, Instr.lenFits, Instr.sinkChFits]

theorem decode_encode {i : Instr} (hw : i.wellFormed = true) : decode (encode i) = .instr i := by
  obtain ⟨hl, hc⟩ := (wellFormed_iff i).mp hw
  refine (decode_eq_instr_iff _ _).mpr
    ⟨headerRsvd_encode i, headerOp_encode i, headerIsBc1_encode i, ?_, ?_⟩
  · rw [headerLen_encode, Nat.mod_eq_of_lt (by omega)]
  · rw [headerSinkCh_encode, Nat.mod_eq_of_lt (by omega)]

theorem wellFormed_of_decode {h : Header} {i : Instr} (hd : decode h = .instr i) : i.wellFormed = true := by
  obtain ⟨-, -, -, hl, hc⟩ := (decode_eq_instr_iff h i).mp hd
  have := headerLen_lt h
  have := headerSinkCh_lt h
  exact (wellFormed_iff i).mpr ⟨by omega, by omega⟩

theorem encode_of_decode {h : Header} {i : Instr} (hd : decode h = .instr i) : encode i = h := by
  obtain ⟨hr, hop, hb, hl, hc⟩ := (decode_eq_instr_iff h i).mp hd
  calc encode i
      = BitVec.ofNat 4 (headerSinkCh h) ++ BitVec.ofNat 4 (headerLen h) ++ headerRsvd h ++
          BitVec.ofBool (headerIsBc1 h) ++ headerOp h := by rw [encode, hr, hop, hb, hl, hc]; rfl
    _ = h := header_eq_append h

/-- Settles O1: the decoder reads back each of the five fields the encoder wrote. -/
theorem decodeOfEncodeIsTheInstruction : Obligations.DecodeOfEncodeIsTheInstruction := fun _ => decode_encode

/-- Settles O2: the counts read are below 16, and a header is its five fields. -/
theorem decodedHeaderIsItsEncoding : Obligations.DecodedHeaderIsItsEncoding := fun _ _ hd =>
  ⟨wellFormed_of_decode hd, encode_of_decode hd⟩

/-- The same, on the header as a number. -/
theorem decode_illegal_iff_toNat (h : Header) :
    (∃ e, decode h = .illegal e) ↔ (h.toNat % 16 = 0 ∨ 10 ≤ h.toNat % 16) ∨ h.toNat / 32 % 8 ≠ 0 := by
  rw [decode_illegal_iff, toNat_headerOp, ← toNat_headerRsvd, ne_eq, ne_eq, BitVec.toNat_eq]
  rfl

/-- Settles O3: `op` and `rsvd` are digits of the header. -/
theorem illegalHeadersAreTheReservedOnes : Obligations.IllegalHeadersAreTheReservedOnes := decode_illegal_iff_toNat

/-! ## The mask of the operation table -/

/-- The mask 0x00EF keeps `op`. -/
theorem headerOp_mask (h : Header) : headerOp (h &&& 0x00EF) = headerOp h := by
  rw [headerOp, BitVec.extractLsb'_and]
  exact BitVec.and_allOnes

/-- The mask 0x00EF keeps `rsvd`. -/
theorem headerRsvd_mask (h : Header) : headerRsvd (h &&& 0x00EF) = headerRsvd h := by
  rw [headerRsvd, BitVec.extractLsb'_and]
  exact BitVec.and_allOnes

/-! ## Two headers with the same operation -/

/-- The instruction of the same operation with other header fields. -/
def Instr.withFields (i : Instr) (b : Bool) (l c : Nat) : Instr :=
  match i with
  | .pack565 _ _ _ => .pack565 b l c
  | .unpack565 _ _ _ => .unpack565 b l c
  | .idxpack _ _ _ => .idxpack b l c
  | .idxunpack _ _ _ => .idxunpack b l c
  | .wrblk _ _ _ => .wrblk b l c
  | .write3 _ _ _ => .write3 b l c
  | .write4 _ _ _ => .write4 b l c
  | .palette _ _ _ => .palette b l c
  | .decomp _ _ _ => .decomp b l c

theorem opCode_withFields (i : Instr) (b : Bool) (l c : Nat) : opCode (i.withFields b l c) = opCode i := by
  cases i <;> rfl

theorem isBc1_withFields (i : Instr) (b : Bool) (l c : Nat) : (i.withFields b l c).isBc1 = b := by
  cases i <;> rfl

theorem len_withFields (i : Instr) (b : Bool) (l c : Nat) : (i.withFields b l c).len = l := by
  cases i <;> rfl

theorem sinkCh_withFields (i : Instr) (b : Bool) (l c : Nat) : (i.withFields b l c).sinkCh = c := by
  cases i <;> rfl

/-- Of two headers that agree under the table's mask, the second decodes to the operation of the first, with its own
three fields. -/
theorem decode_of_same_mask {h h' : Header} {i : Instr} (hd : decode h = .instr i)
    (hm : h &&& 0x00EF = h' &&& 0x00EF) :
    decode h' = .instr (i.withFields (headerIsBc1 h') (headerLen h') (headerSinkCh h')) := by
  obtain ⟨hr, hop, -, -, -⟩ := (decode_eq_instr_iff h i).mp hd
  refine (decode_eq_instr_iff h' _).mpr
    ⟨?_, ?_, (isBc1_withFields ..).symm, (len_withFields ..).symm, (sinkCh_withFields ..).symm⟩
  · rw [← headerRsvd_mask, ← hm, headerRsvd_mask, hr]
  · rw [← headerOp_mask, ← hm, headerOp_mask, hop, opCode_withFields]

/-! ## The rows of the operation table -/

theorem tableRow_statement (i : Instr) : Laws.TableRow.Statement i := by
  cases i with
  | pack565 b l c => exact Laws.TableRow.pack565 b l c
  | unpack565 b l c => exact Laws.TableRow.unpack565 b l c
  | idxpack b l c => exact Laws.TableRow.idxpack b l c
  | idxunpack b l c => exact Laws.TableRow.idxunpack b l c
  | wrblk b l c => exact Laws.TableRow.wrblk b l c
  | write3 b l c => exact Laws.TableRow.write3 b l c
  | write4 b l c => exact Laws.TableRow.write4 b l c
  | palette b l c => exact Laws.TableRow.palette b l c
  | decomp b l c => exact Laws.TableRow.decomp b l c

/-- Each row has the common mask, no reserved bit in its pattern, and a code that is not reserved. -/
theorem opcodeTable_rows : ∀ row ∈ opcodeTable, row.mask = 0x00EF ∧ headerRsvd row.pattern = 0 ∧
    ¬ ((headerOp row.pattern).toNat = 0 ∨ 10 ≤ (headerOp row.pattern).toNat) := by decide

/-- A header that selects a row is legal: it has the row's `op`, and `rsvd` zero. -/
theorem decode_ne_illegal_of_selects {row : OpcodeRow} (hrow : row ∈ opcodeTable) {h : Header}
    (hs : row.selects h = true) (e : DecodeError) : decode h ≠ .illegal e := by
  obtain ⟨hmask, hrsvd, hop⟩ := opcodeTable_rows row hrow
  have hp : h &&& 0x00EF = row.pattern := by simpa [OpcodeRow.selects, hmask] using hs
  rw [← hp, headerRsvd_mask] at hrsvd
  rw [← hp, headerOp_mask] at hop
  intro hd
  obtain hr | hr := (decode_illegal_iff h).mp ⟨e, hd⟩
  · exact hop hr
  · exact hr hrsvd

/-- Settles O4: a header that decodes is the encoding of its instruction, which selects its own row alone. -/
theorem headerSelectsItsTableRow : Obligations.HeaderSelectsItsTableRow := by
  intro h row hrow
  cases hd : decode h with
  | illegal e =>
    exact ⟨fun hs => absurd hd (decode_ne_illegal_of_selects hrow hs e), nofun⟩
  | instr i =>
    have hsel := (tableRow_statement i).2 row hrow
    rw [encode_of_decode hd] at hsel
    simp [hsel, eq_comm]

/-- Settles O5: each header by evaluation of the decoder. -/
theorem spelledOutHeadersDecode : Obligations.SpelledOutHeadersDecode := by
  unfold Obligations.SpelledOutHeadersDecode
  decide

end Sys2Proof
/-!
SUPPORT. One step on a legal and on an illegal header, and what a command's answer does not depend on (spec
30_encoding.md R60, R63 to R66, R70, R71).
-/
namespace Sys2Proof.Machine

/-! ## One step -/

theorem fedCommand_of_oblk {s : State} {o : Block} (h : s.rsp.oblk = some o) (hdr : Header) :
    fedCommand s hdr = { hdr := hdr, ops := { s.cmd.ops with blk := o } } := by
  rw [fedCommand, h, Option.getD_some]

/-- Settles O6: the decoding procedure runs the instruction it reads, on the sampled ports. -/
theorem stepRunsTheDecodedInstruction : Obligations.StepRunsTheDecodedInstruction := by
  refine ⟨fun s c rest i hh hd => step_command_instr hh hd, fun s hdr rest i blk hh hd ho => ?_⟩
  rw [step_feedBlk_instr hh hd, fedCommand_of_oblk ho]
  rfl

theorem step_feedBlk_illegal {s : State} {hdr : Header} {es : List HostEvent} {e : DecodeError}
    (h : s.host = .feedBlk hdr :: es) (hf : s.fsr.f = false) (hd : decode hdr = .illegal e) :
    step s = .next (raiseContractFault (sample s (fedCommand s hdr) es) .illegalCmd) := by
  rw [step_feedBlk h]
  exact transact_of_illegal (s := sample s (fedCommand s hdr) es) hf hd

/-- Settles O8: the decoder reads no instruction from such a header, and the step takes the fault. -/
theorem illegalCommandRaisesContractFault : Obligations.IllegalCommandRaisesContractFault := by
  intro s c rest hf hres
  obtain ⟨e, hd⟩ := (decode_illegal_iff_toNat c.hdr).mpr hres
  constructor
  · intro hh
    rw [step_command_illegal hh hf hd, raiseContractFault_eq]
    rfl
  · intro hh
    refine ⟨s.rsp.oblk.getD s.cmd.ops.blk, ?_⟩
    rw [step_feedBlk_illegal hh hf hd, raiseContractFault_eq]
    rfl

/-! ## What an answer does not depend on -/

/-- A wide read is fixed by the bytes it covers. -/
theorem memRead_two_congr {b d : Block} {k : Nat} (h0 : byteAt b k = byteAt d k)
    (h1 : byteAt b (k + 1) = byteAt d (k + 1)) : memRead b k 2 = memRead d k 2 :=
  BitVec.eq_of_toNat_eq (by rw [toNat_memRead_two, toNat_memRead_two, h0, h1])

/-- Two commands for one operation that agree on what it reads are answered alike. -/
theorem transact_answersAlike_of_sameOperandsRead {s u : State} {i : Instr} (hf : s.fsr.f = u.fsr.f)
    (hd : decode s.cmd.hdr = .instr i) (hm : s.cmd.hdr &&& 0x00EF = u.cmd.hdr &&& 0x00EF)
    (hread : sameOperandsRead i s.cmd u.cmd) : answersAlike s u (transact s) (transact u) := by
  cases hs : s.fsr.f with
  | true =>
    rw [transact_of_latched hs, transact_of_latched (hf ▸ hs)]
    exact answersAlike_refuse s u
  | false =>
    have hu : u.fsr.f = false := hf ▸ hs
    obtain ⟨-, -, hb, hl, hc⟩ := (decode_eq_instr_iff _ _).mp hd
    rw [transact_of_instr hd, transact_of_instr (decode_of_same_mask hd hm)]
    cases i with
    | pack565 b l c =>
      rw [Instr.withFields, exec_pack565 hs,
        exec_pack565 hu, show s.cmd.ops.ca = u.cmd.ops.ca from hread]
      exact answersAlike_respond s u _
    | unpack565 b l c =>
      obtain ⟨hlen, h0, h1⟩ := hread
      rw [Instr.withFields, exec_unpack565 hs,
        exec_unpack565 hu, memRead_two_congr h0 h1, show headerLen u.cmd.hdr = l from hlen ▸ hl]
      split
      · exact answersAlike_raiseContractFault s u _
      · exact answersAlike_respond s u _
    | idxpack b l c =>
      rw [Instr.withFields, exec_idxpack hs,
        exec_idxpack hu, show s.cmd.ops.idx = u.cmd.ops.idx from hread]
      exact answersAlike_respond s u _
    | idxunpack b l c =>
      rw [Instr.withFields, exec_idxunpack hs,
        exec_idxunpack hu, show s.cmd.ops.idx = u.cmd.ops.idx from hread]
      exact answersAlike_respond s u _
    | wrblk b l c =>
      obtain ⟨hea, heb, hidx⟩ := hread
      rw [Instr.withFields, exec_wrblk hs,
        exec_wrblk hu, hea, heb, hidx]
      exact answersAlike_respond s u _
    | write3 b l c =>
      obtain ⟨hca, hcb, hidx⟩ := hread
      rw [Instr.withFields, exec_write3 hs,
        exec_write3 hu, hca, hcb, hidx]
      exact answersAlike_respond s u _
    | write4 b l c =>
      obtain ⟨hca, hcb, hidx⟩ := hread
      rw [Instr.withFields, exec_write4 hs,
        exec_write4 hu, hca, hcb, hidx]
      exact answersAlike_respond s u _
    | palette b l c =>
      obtain ⟨hbc1, hea, heb⟩ := hread
      rw [Instr.withFields, exec_palette hs,
        exec_palette hu, hea, heb, show headerIsBc1 u.cmd.hdr = b from hbc1 ▸ hb]
      exact answersAlike_respond s u _
    | decomp b l c =>
      obtain ⟨hbc1, hlen, hch, hblk⟩ := hread
      rw [Instr.withFields, exec_decomp hs,
        exec_decomp hu, hblk, show headerIsBc1 u.cmd.hdr = b from hbc1 ▸ hb,
        show headerLen u.cmd.hdr = l from hlen ▸ hl, show headerSinkCh u.cmd.hdr = c from hch ▸ hc]
      split
      · exact answersAlike_raiseContractFault s u _
      · split
        · exact answersAlike_raiseContractFault s u _
        · exact answersAlike_respond s u _

/-- Settles O11: the two sampled states differ in the command alone. -/
theorem unreadFieldsAndPortsAreIgnored : Obligations.UnreadFieldsAndPortsAreIgnored := by
  intro s c d rest i hd hm hread
  obtain ⟨t, u, ws, ht, hu, hrsp, hts, hus⟩ :=
    transact_answersAlike_of_sameOperandsRead (s := sample s c rest) (u := sample s d rest) rfl hd hm hread
  exact ⟨t, u, (step_command rfl).trans ht, (step_command rfl).trans hu, hrsp, hts.trans hus.symm⟩

end Sys2Proof.Machine

/-!
SUPPORT. What a decoded pixel shows (spec 43_palette_interpolator.md R141 to R145, 44_block_decompressor.md R161) and
the two round trips (R168; 42_block_encoder.md R129).
-/
namespace Sys2Proof.Machine

/-! ## The channels of a quad and the quads of the pixel port -/

theorem extractLsb'_rgbaPort (q : Rgba) (ch : Fin 4) : (rgbaPort q).extractLsb' (8 * ch.val) 8 = rgbaChannel q ch := by
  rw [rgbaPort]
  fin_cases ch <;>
    simp (disch := decide) only [BitVec.extractLsb'_append_eq_of_le, BitVec.extractLsb'_append_eq_of_add_le] <;>
    exact BitVec.extractLsb'_eq_self

/-- `PIX[p]` is the quad of pixel p (10_state.md R22). -/
theorem extractLsb'_pixelPort (f : Fin 16 → Rgba) (p : Fin 16) :
    (pixelPort f).extractLsb' (32 * p.val) 32 = rgbaPort (f p) := by
  rw [pixelPort]
  fin_cases p <;>
    simp (disch := decide) only [BitVec.extractLsb'_append_eq_of_le, BitVec.extractLsb'_append_eq_of_add_le] <;>
    exact BitVec.extractLsb'_eq_self

theorem quadChannel_pixelPort (f : Fin 16 → Rgba) (p : Fin 16) (ch : Fin 4) :
    quadChannel (pixelPort f) p.val ch = (rgbaChannel (f p) ch).toNat := by
  rw [quadChannel, ← extractLsb'_extractLsb'_of_add_le _ (m := 32) (by omega), extractLsb'_pixelPort,
    extractLsb'_rgbaPort]

/-- Lane p of an index port is digit p of the word, base 4 (20_memory.md R43). -/
theorem toNat_indicesOfPort (w : IndexWord) (p : Fin 16) : (indicesOfPort w p).toNat = wordIndex w p.val := by
  rw [indicesOfPort, wordIndex, BitVec.extractLsb'_toNat, Nat.shiftRight_eq_div_pow, pow_mul]
  norm_num

/-! ## The fields of a written block -/

theorem memRead_wrblk_a (a b : Packed565) (f : IndexArray) : memRead (wrblk a b f) 0 2 = a := by
  rw [memRead_eq_extractLsb', wrblk_eq_append]
  exact BitVec.extractLsb'_append_eq_right

theorem memRead_wrblk_b (a b : Packed565) (f : IndexArray) : memRead (wrblk a b f) 2 2 = b := by
  rw [memRead_eq_extractLsb', wrblk_eq_append, BitVec.extractLsb'_append_eq_of_le (by decide)]
  exact BitVec.extractLsb'_append_eq_right

theorem memRead_wrblk_indices (a b : Packed565) (f : IndexArray) : memRead (wrblk a b f) 4 4 = portOfIndices f := by
  rw [memRead_eq_extractLsb', wrblk_eq_append, BitVec.extractLsb'_append_eq_of_le (by decide)]
  exact BitVec.extractLsb'_append_eq_left

/-- A pixel of a written block is the slot its index selects in the palette of the two endpoints written. -/
theorem blockPixel_wrblk (a b : Packed565) (f : IndexArray) (isBc1 : Bool) (p : Fin 16) :
    blockPixel (wrblk a b f) isBc1 p = paletteSlot (derivePalette a b isBc1) (f p) := by
  rw [blockPixel, blockPalette, blockIndices, memRead_wrblk_a, memRead_wrblk_b, memRead_wrblk_indices,
    unpackIndices_eq_indicesOfPort, indicesOfPort_portOfIndices]

/-! ## The channels of an endpoint and of a blend -/

theorem toNat_exp5 : ∀ v : BitVec 5, (exp5 v).toNat = v.toNat * 8 + v.toNat / 4 := by decide

theorem toNat_exp6 : ∀ v : BitVec 6, (exp6 v).toNat = v.toNat * 4 + v.toNat / 16 := by decide

/-- The channels of an expanded endpoint (40_endpoint_packer.md R85, R86). -/
theorem toNat_rgbaChannel_unpack (v : Packed565) (ch : Fin 4) :
    (rgbaChannel (unpack v) ch).toNat = expandedChannel v ch := by
  have hv := v.isLt
  fin_cases ch
  · change (exp5 (v.extractLsb' 11 5)).toNat = v.toNat / 2048 * 8 + v.toNat / 2048 / 4
    rw [toNat_exp5, BitVec.extractLsb'_toNat, Nat.shiftRight_eq_div_pow]
    omega
  · change (exp6 (v.extractLsb' 5 6)).toNat = v.toNat / 32 % 64 * 4 + v.toNat / 32 % 64 / 16
    rw [toNat_exp6, BitVec.extractLsb'_toNat, Nat.shiftRight_eq_div_pow]
  · exact toNat_exp5 _
  · rfl

theorem toNat_average (c d : Byte) : (average c d).toNat = (c.toNat + d.toNat) / 2 := by
  rw [average, BitVec.toNat_ofNat, Nat.mod_eq_of_lt (by omega)]

theorem toNat_blend21 (c d : Byte) : (blend21 c d).toNat = (2 * c.toNat + d.toNat) / 3 := by
  rw [blend21, BitVec.toNat_ofNat, Nat.mod_eq_of_lt (by omega)]

/-- A blend that keeps 255 mixes the opaque alpha like the colour channels. -/
theorem rgbaChannel_mixOpaque {mix : Byte → Byte → Byte} (hmix : mix 255 255 = 255) (v w : Packed565) (ch : Fin 4) :
    rgbaChannel (mixOpaque mix (unpack v) (unpack w)) ch =
      mix (rgbaChannel (unpack v) ch) (rgbaChannel (unpack w) ch) := by
  fin_cases ch
  · rfl
  · rfl
  · rfl
  · exact hmix.symm

theorem toNat_rgbaChannel_average (v w : Packed565) (ch : Fin 4) :
    (rgbaChannel (mixOpaque average (unpack v) (unpack w)) ch).toNat =
      (expandedChannel v ch + expandedChannel w ch) / 2 := by
  rw [rgbaChannel_mixOpaque (by decide), toNat_average, toNat_rgbaChannel_unpack, toNat_rgbaChannel_unpack]

theorem toNat_rgbaChannel_blend21 (v w : Packed565) (ch : Fin 4) :
    (rgbaChannel (mixOpaque blend21 (unpack v) (unpack w)) ch).toNat =
      (2 * expandedChannel v ch + expandedChannel w ch) / 3 := by
  rw [rgbaChannel_mixOpaque (by decide), toNat_blend21, toNat_rgbaChannel_unpack, toNat_rgbaChannel_unpack]

theorem rgbaChannel_transparentBlack (ch : Fin 4) : rgbaChannel transparentBlack ch = 0 := by
  fin_cases ch <;> rfl

/-! ## The two palettes, and the relabelling that exchanging the endpoints asks for -/

/-- The palette of 3-colour mode (43_palette_interpolator.md R142). -/
def threeColourPalette (c d : Rgba) : Palette :=
  { slot0 := c, slot1 := d, slot2 := mixOpaque average c d, slot3 := transparentBlack }

/-- The palette of 4-colour mode (R143). -/
def fourColourPalette (c d : Rgba) : Palette :=
  { slot0 := c, slot1 := d, slot2 := mixOpaque blend21 c d, slot3 := mixOpaque blend21 d c }

theorem derivePalette_of_threeColour {a b : Packed565} {isBc1 : Bool} (h : threeColour isBc1 a b = true) :
    derivePalette a b isBc1 = threeColourPalette (unpack a) (unpack b) := if_pos h

theorem derivePalette_of_fourColour {a b : Packed565} {isBc1 : Bool} (h : threeColour isBc1 a b = false) :
    derivePalette a b isBc1 = fourColourPalette (unpack a) (unpack b) := if_neg (by simp [h])

theorem average_comm (c d : Byte) : average c d = average d c := by rw [average, average, Nat.add_comm]

/-- Exchanging the endpoints and relabelling as `WRITE3` does shows the same (42_block_encoder.md R122). -/
theorem paletteSlot_remap3 (c d : Rgba) (i : BitVec 2) :
    paletteSlot (threeColourPalette d c) (remap3 i) = paletteSlot (threeColourPalette c d) i := by
  have hmix : mixOpaque average d c = mixOpaque average c d := by
    rw [mixOpaque, mixOpaque, average_comm d.r, average_comm d.g, average_comm d.b]
  match i with
  | 0 | 1 | 3 => rfl
  | 2 => exact hmix

/-- Exchanging the endpoints and relabelling as `WRITE4` does shows the same (R125). -/
theorem paletteSlot_remap4 (c d : Rgba) (i : BitVec 2) :
    paletteSlot (fourColourPalette d c) (remap4 i) = paletteSlot (fourColourPalette c d) i := by
  match i with
  | 0 | 1 | 2 | 3 => rfl

theorem packedBelow_iff (a b : Packed565) : packedBelow a b = true ↔ a.toNat < b.toNat := decide_eq_true_iff

theorem threeColour_bc1_iff (a b : Packed565) : threeColour true a b = true ↔ a.toNat ≤ b.toNat := by
  simp [threeColour, packedBelow]

theorem threeColour_of_above {a b : Packed565} (isBc1 : Bool) (h : b.toNat < a.toNat) :
    threeColour isBc1 a b = false := by
  simp [threeColour, (packedBelow_iff b a).mpr h]

/-- Every pixel of a `WRITE3` block, decoded as BC1, is what its index asks of the 3-colour palette of start and end,
in whichever order they were stored. -/
theorem blockPixel_write3Block (start stop : Colour) (f : IndexArray) (p : Fin 16) :
    blockPixel (write3Block start stop f) true p =
      paletteSlot (threeColourPalette (unpack (pack start)) (unpack (pack stop))) (f p) := by
  rw [write3Block]
  split
  case isTrue h =>
    have h := (packedBelow_iff _ _).mp h
    rw [blockPixel_wrblk, derivePalette_of_threeColour ((threeColour_bc1_iff _ _).mpr h.le), paletteSlot_remap3]
  case isFalse h =>
    have h := Nat.le_of_not_lt (mt (packedBelow_iff _ _).mpr h)
    rw [blockPixel_wrblk, derivePalette_of_threeColour ((threeColour_bc1_iff _ _).mpr h)]

/-- The same for `WRITE4` with different packed endpoints and the 4-colour palette, under either setting. -/
theorem blockPixel_write4Block_of_ne {start stop : Colour} (hne : pack start ≠ pack stop) (f : IndexArray)
    (isBc1 : Bool) (p : Fin 16) :
    blockPixel (write4Block start stop f) isBc1 p =
      paletteSlot (fourColourPalette (unpack (pack start)) (unpack (pack stop))) (f p) := by
  rw [write4Block]
  split
  case isTrue h =>
    have h := (packedBelow_iff _ _).mp h
    rw [blockPixel_wrblk, derivePalette_of_fourColour (threeColour_of_above isBc1 h), paletteSlot_remap4]
  case isFalse h =>
    have h' := mt (packedBelow_iff _ _).mpr h
    have hbelow : (pack stop).toNat < (pack start).toNat := by
      have := mt BitVec.eq_of_toNat_eq hne
      omega
    rw [if_pos ((packedBelow_iff _ _).mpr hbelow), blockPixel_wrblk,
      derivePalette_of_fourColour (threeColour_of_above isBc1 hbelow)]

/-- With equal packed endpoints every index is stored as 0, which shows the endpoint in either mode. -/
theorem blockPixel_write4Block_of_eq {start stop : Colour} (he : pack start = pack stop) (f : IndexArray)
    (isBc1 : Bool) (p : Fin 16) : blockPixel (write4Block start stop f) isBc1 p = unpack (pack start) := by
  have hnot : ¬ packedBelow (pack stop) (pack stop) = true := mt (packedBelow_iff _ _).mp (lt_irrefl _)
  rw [write4Block, he, if_neg hnot, if_neg hnot, blockPixel_wrblk]
  cases h : threeColour isBc1 (pack stop) (pack stop) with
  | true => rw [derivePalette_of_threeColour h]; rfl
  | false => rw [derivePalette_of_fourColour h]; rfl

/-! ## A block producer followed by `DECOMP` on its block -/

theorem exec_decomp_of_ok {s : State} (hf : s.fsr.f = false) (b : Bool) :
    exec (sourceInstr (.decompress b)) s = .next (respond s (decompResponse s.cmd.ops.blk b)) :=
  exec_decomp hf b _ _

/-- The host runs a block producer and feeds its block to `DECOMP` (30_encoding.md R70): two steps, both answered `OK`. -/
theorem run_producer_then_decomp {s : State} {i : Instr} {ops : Operands} {b : Bool} {rest : List HostEvent} {o : Block}
    (hf : s.fsr.f = false) (hw : i.wellFormed = true)
    (hh : s.host = .command { hdr := encode i, ops := ops } :: .feedBlk (encode (sourceInstr (.decompress b))) :: rest)
    (he : ∀ u : State, u.fsr.f = false → u.cmd.ops = ops →
      exec i u = .next (respond u { st := some .ok, oblk := some o })) :
    ∃ t, Host.Core.run Sys2Proof.core 2 s = .next t ∧ t.rsp = decompResponse o b ∧ t.fsr = s.fsr ∧ t.host = rest := by
  have hstep := (step_command_instr hh (decode_encode hw)).trans (he (sample s _ _) hf rfl)
  have hdecomp : (sourceInstr (.decompress b)).wellFormed = true := by cases b <;> decide
  exact ⟨_, (run_succ hstep 1).trans ((run_succ ((step_feedBlk_instr rfl (decode_encode hdecomp)).trans
    (exec_decomp_of_ok (by exact hf) b)) 0).trans (run_zero _)), rfl, rfl, rfl⟩

/-- Settles O52: the decoded pixel is a slot of the 3-colour palette of start and end. -/
theorem enc3decRoundTrip : Obligations.Enc3decRoundTrip := by
  intro s ops rest hf hh
  obtain ⟨t, hrun, hrsp, hfsr, hhost⟩ := run_producer_then_decomp (i := .write3 false 0 0)
    (o := write3Block ops.ca ops.cb (indicesOfPort ops.idx)) hf (by decide) hh
    (fun u hu hops => hops ▸ exec_write3 hu _ _ _)
  refine ⟨t, _, hrun, by rw [hrsp]; rfl, by rw [hrsp]; rfl, hfsr, hhost, fun p ch hp => ?_⟩
  rw [← toNat_indicesOfPort ops.idx ⟨p, hp⟩, quadChannel_pixelPort _ ⟨p, hp⟩, blockPixel_write3Block]
  generalize indicesOfPort ops.idx ⟨p, hp⟩ = i
  refine ⟨fun h => ?_, fun h => ?_, fun h => ?_, fun h => ?_⟩
  · obtain rfl : i = 0 := BitVec.eq_of_toNat_eq h
    exact toNat_rgbaChannel_unpack _ ch
  · obtain rfl : i = 1 := BitVec.eq_of_toNat_eq h
    exact toNat_rgbaChannel_unpack _ ch
  · obtain rfl : i = 2 := BitVec.eq_of_toNat_eq h
    exact toNat_rgbaChannel_average _ _ ch
  · obtain rfl : i = 3 := BitVec.eq_of_toNat_eq h
    exact congrArg BitVec.toNat (rgbaChannel_transparentBlack ch)

/-- Settles O53: the decoded pixel is a slot of the 4-colour palette of start and end, or their one colour. -/
theorem enc4decRoundTrip : Obligations.Enc4decRoundTrip := by
  intro s b ops rest hf hh
  obtain ⟨t, hrun, hrsp, hfsr, hhost⟩ := run_producer_then_decomp (i := .write4 false 0 0)
    (o := write4Block ops.ca ops.cb (indicesOfPort ops.idx)) hf (by decide) hh
    (fun u hu hops => hops ▸ exec_write4 hu _ _ _)
  refine ⟨t, _, hrun, by rw [hrsp]; rfl, by rw [hrsp]; rfl, hfsr, hhost, fun p ch hp => ?_⟩
  rw [← toNat_indicesOfPort ops.idx ⟨p, hp⟩, quadChannel_pixelPort _ ⟨p, hp⟩]
  refine ⟨fun heq => ?_, fun hne => ?_⟩
  · rw [blockPixel_write4Block_of_eq heq, toNat_rgbaChannel_unpack]
  · rw [blockPixel_write4Block_of_ne hne]
    generalize indicesOfPort ops.idx ⟨p, hp⟩ = i
    refine ⟨fun h => ?_, fun h => ?_, fun h => ?_, fun h => ?_⟩
    · obtain rfl : i = 0 := BitVec.eq_of_toNat_eq h
      exact toNat_rgbaChannel_unpack _ ch
    · obtain rfl : i = 1 := BitVec.eq_of_toNat_eq h
      exact toNat_rgbaChannel_unpack _ ch
    · obtain rfl : i = 2 := BitVec.eq_of_toNat_eq h
      exact toNat_rgbaChannel_blend21 _ _ ch
    · obtain rfl : i = 3 := BitVec.eq_of_toNat_eq h
      rw [Nat.add_comm]
      exact toNat_rgbaChannel_blend21 _ _ ch

end Sys2Proof.Machine

/-!
SUPPORT. The endpoint packer: the value of a binary32 word, the quantiser, the fields of a packed colour and their
expansion (spec 40_endpoint_packer.md).
-/
namespace Sys2Proof.Machine

/-! ## The fields of a binary32 word, and its value in each of the five cases of R80 -/

/-- `e = w[30:23]` (R80). -/
def floatExponent (w : FloatWord) : Nat := (w.extractLsb' 23 8).toNat

/-- `f = w[22:0]` (R80). -/
def floatFraction (w : FloatWord) : Nat := (w.extractLsb' 0 23).toNat

theorem floatExponent_eq (w : FloatWord) : floatExponent w = w.toNat / 2 ^ 23 % 256 := by
  rw [floatExponent, BitVec.extractLsb'_toNat, Nat.shiftRight_eq_div_pow]

theorem floatFraction_eq (w : FloatWord) : floatFraction w = w.toNat % 2 ^ 23 := rfl

theorem floatFraction_lt (w : FloatWord) : floatFraction w < 2 ^ 23 := (w.extractLsb' 0 23).isLt

theorem getLsbD_sign (w : FloatWord) : w.getLsbD 31 = decide (2 ^ 31 ≤ w.toNat) := BitVec.msb_eq_decide w

section Cases

variable {w : FloatWord}

theorem fval_of_nan (he : floatExponent w = 255) (hf : floatFraction w ≠ 0) : fval w = .nan :=
  (if_pos he).trans (if_pos hf)

theorem fval_of_infinity (he : floatExponent w = 255) (hf : floatFraction w = 0) :
    fval w = .infinity (w.getLsbD 31) := (if_pos he).trans (if_neg (not_not.mpr hf))

theorem fval_of_subnormal (he : floatExponent w = 0) :
    fval w = .finite (signed (w.getLsbD 31) (floatFraction w)) (2 ^ 149) :=
  (if_neg (show floatExponent w ≠ 255 by omega)).trans (if_pos he)

/-- A normal word whose unit in the last place is below 1. -/
theorem fval_of_fractional (h0 : floatExponent w ≠ 0) (he : floatExponent w < 150) :
    fval w = .finite (signed (w.getLsbD 31) (2 ^ 23 + floatFraction w)) (2 ^ (150 - floatExponent w)) :=
  (if_neg (show floatExponent w ≠ 255 by omega)).trans ((if_neg h0).trans (if_pos he))

/-- A normal word that stands for an integer. -/
theorem fval_of_integral (he : 150 ≤ floatExponent w) (h255 : floatExponent w ≠ 255) :
    fval w =
      .finite (signed (w.getLsbD 31) ((2 ^ 23 + floatFraction w) * 2 ^ (floatExponent w - 150))) 1 :=
  (if_neg h255).trans ((if_neg (show floatExponent w ≠ 0 by omega)).trans (if_neg (not_lt.mpr he)))

end Cases

/-- What a finite word stands for: its sign, its digits, and a denominator that is a power of two. -/
theorem fval_finite_cases {w : FloatWord} {num : Int} {den : Nat} (h : fval w = .finite num den) :
    (num = signed (w.getLsbD 31) (floatFraction w) ∧ den = 2 ^ 149) ∨
    (num = signed (w.getLsbD 31) (2 ^ 23 + floatFraction w) ∧ den = 2 ^ (150 - floatExponent w)) ∨
    den = 1 := by
  by_cases h255 : floatExponent w = 255
  · by_cases hf : floatFraction w = 0
    · cases (fval_of_infinity h255 hf).symm.trans h
    · cases (fval_of_nan h255 hf).symm.trans h
  · by_cases h0 : floatExponent w = 0
    · cases (fval_of_subnormal h0).symm.trans h
      exact .inl ⟨rfl, rfl⟩
    · by_cases he : floatExponent w < 150
      · cases (fval_of_fractional h0 he).symm.trans h
        exact .inr (.inl ⟨rfl, rfl⟩)
      · cases (fval_of_integral (not_lt.mp he) h255).symm.trans h
        exact .inr (.inr rfl)

/-- The denominator of a finite word is a power of two: its value is a dyadic rational (R83). -/
theorem exists_den_eq_two_pow {w : FloatWord} {num : Int} {den : Nat} (h : fval w = .finite num den) :
    ∃ j, den = 2 ^ j := by
  obtain ⟨-, hden⟩ | ⟨-, hden⟩ | hden := fval_finite_cases h
  · exact ⟨149, hden⟩
  · exact ⟨_, hden⟩
  · exact ⟨0, hden⟩

theorem den_pos {w : FloatWord} {num : Int} {den : Nat} (h : fval w = .finite num den) : 0 < den := by
  obtain ⟨j, rfl⟩ := exists_den_eq_two_pow h
  exact Nat.two_pow_pos j

/-! ## The exact rational -/

theorem signed_false (n : Nat) : signed false n = n := rfl

theorem cast_signed (s : Bool) (n : Nat) : ((signed s n : ℤ) : ℚ) = (if s then -1 else 1) * (n : ℚ) := by
  cases s <;> simp [signed]

/-- The machine's numerator and denominator are the rational of R80. -/
theorem valueRat_fval (w : FloatWord) : valueRat (fval w) = floatRat w := by
  by_cases h255 : floatExponent w = 255
  · rw [show floatRat w = none from if_pos h255]
    by_cases hf : floatFraction w = 0
    · rw [fval_of_infinity h255 hf, valueRat]
    · rw [fval_of_nan h255 hf, valueRat]
  · by_cases h0 : floatExponent w = 0
    · rw [show floatRat w = some ((if w.getLsbD 31 then -1 else 1) * (floatFraction w : ℚ) * 2 ^ (-149 : ℤ)) from
        (if_neg h255).trans (if_pos h0), fval_of_subnormal h0, valueRat, cast_signed, zpow_neg, div_eq_mul_inv]
      norm_cast
    · rw [show floatRat w = some ((if w.getLsbD 31 then -1 else 1) * (2 ^ 23 + (floatFraction w : ℚ)) *
          2 ^ ((floatExponent w : ℤ) - 150)) from (if_neg h255).trans (if_neg h0)]
      by_cases he : floatExponent w < 150
      · rw [fval_of_fractional h0 he, valueRat, cast_signed,
          show (floatExponent w : ℤ) - 150 = -((150 - floatExponent w : ℕ) : ℤ) by omega, zpow_neg, zpow_natCast,
          div_eq_mul_inv]
        push_cast
        rfl
      · have he := not_lt.mp he
        rw [fval_of_integral he h255, valueRat, cast_signed,
          show (floatExponent w : ℤ) - 150 = ((floatExponent w - 150 : ℕ) : ℤ) by omega, zpow_natCast]
        rw [Nat.cast_mul, Nat.cast_add, Nat.cast_pow, Nat.cast_pow, Nat.cast_one, div_one, mul_assoc]
        rfl

/-- A word with a value is finite, and its value is the quotient of the machine's two integers. -/
theorem fval_of_floatRat {w : FloatWord} {v : ℚ} (h : floatRat w = some v) :
    ∃ num den, fval w = .finite num den ∧ v = (num : ℚ) / (den : ℚ) := by
  rw [← valueRat_fval] at h
  cases hw : fval w with
  | nan => rw [hw] at h; cases h
  | infinity s => rw [hw] at h; cases h
  | finite num den => rw [hw] at h; cases h; exact ⟨num, den, rfl, rfl⟩

theorem fval_of_nan_bits {w : FloatWord} (he : w.toNat / 2 ^ 23 % 256 = 255) (hf : w.toNat % 2 ^ 23 ≠ 0) :
    fval w = .nan := fval_of_nan ((floatExponent_eq w).trans he) hf

theorem fval_posInfinity : fval 0x7F800000 = .infinity false := fval_of_infinity (by decide) (by decide)

theorem fval_negInfinity : fval 0xFF800000 = .infinity true := fval_of_infinity (by decide) (by decide)

/-- Settles O21: the exact rational in each finite case, and the words that are not finite by their bits. -/
theorem fvalIsBinary32 : Obligations.FvalIsBinary32 := fun w =>
  ⟨valueRat_fval w, fval_of_nan_bits, fun h => h ▸ fval_posInfinity, fun h => h ▸ fval_negInfinity⟩

/-! ## The quantiser -/

theorem quant_of_nan {w : FloatWord} (h : fval w = .nan) (m : Nat) : quant w m = 0 := by rw [quant, h]

theorem quant_of_infinity {w : FloatWord} {s : Bool} (h : fval w = .infinity s) (m : Nat) :
    quant w m = if s then 0 else m := by rw [quant, h]

theorem quant_of_finite {w : FloatWord} {num : Int} {den : Nat} (h : fval w = .finite num den) (m : Nat) :
    quant w m = clampToMax ((2 * num * (m : Int) + (den : Int)) / (2 * (den : Int))) m := by rw [quant, h]

theorem cast_clampToMax (i : Int) (hi : Nat) : (clampToMax i hi : ℤ) = min (max i 0) (hi : ℤ) := by
  unfold clampToMax
  split
  · omega
  · split <;> omega

theorem clampToMax_le (i : Int) (hi : Nat) : clampToMax i hi ≤ hi := by
  have := cast_clampToMax i hi
  omega

/-- The field of a channel fits its width (R81). -/
theorem quant_le (w : FloatWord) (m : Nat) : quant w m ≤ m := by
  cases h : fval w with
  | nan => rw [quant_of_nan h]; exact Nat.zero_le m
  | infinity s =>
    rw [quant_of_infinity h]
    split
    · exact Nat.zero_le m
    · exact le_rfl
  | finite num den => rw [quant_of_finite h]; exact clampToMax_le _ _

/-- The integer quotient of `quant` is the floor of R81's `p + 1/2`. -/
theorem floor_mul_add_half {num : Int} {den : Nat} (hden : 0 < den) (m : Nat) :
    ⌊(num : ℚ) / (den : ℚ) * (m : ℚ) + 1 / 2⌋ = (2 * num * (m : Int) + (den : Int)) / (2 * (den : Int)) := by
  have hq : (den : ℚ) ≠ 0 := by exact_mod_cast hden.ne'
  have hp : (num : ℚ) / (den : ℚ) * (m : ℚ) + 1 / 2 =
      ((2 * num * (m : ℤ) + (den : ℤ) : ℤ) : ℚ) / ((2 * den : ℕ) : ℚ) := by
    push_cast
    field_simp
  rw [hp, Rat.floor_intCast_div_natCast]
  norm_cast

/-- `quant` on a finite word, on rationals (R81). -/
theorem cast_quant_of_floatRat {w : FloatWord} {v : ℚ} (h : floatRat w = some v) (m : Nat) :
    (quant w m : ℤ) = min (max ⌊v * (m : ℚ) + 1 / 2⌋ 0) (m : ℤ) := by
  obtain ⟨num, den, hw, rfl⟩ := fval_of_floatRat h
  rw [quant_of_finite hw, cast_clampToMax, floor_mul_add_half (den_pos hw)]

/-- Settles O22: the finite words on rationals, and the others by what they stand for. -/
theorem quantRoundsAndSaturates : Obligations.QuantRoundsAndSaturates := fun _ m _ =>
  ⟨fun _ hv => cast_quant_of_floatRat hv m, fun he hf => quant_of_nan (fval_of_nan_bits he hf) m,
    fun h => h ▸ quant_of_infinity fval_posInfinity m, fun h => h ▸ quant_of_infinity fval_negInfinity m⟩

/-- Settles O23: the clamp does not touch a threshold from 1 to the maximum, and the floor is at least `k` exactly when
its argument is. -/
theorem quantCountsThresholds : Obligations.QuantCountsThresholds := by
  intro w m k v _ hv hk hkm
  have hm : (0 : ℚ) < 2 * (m : ℚ) := by exact_mod_cast (by omega : 0 < 2 * m)
  have hq := cast_quant_of_floatRat hv m
  calc k ≤ quant w m
      ↔ (k : ℤ) ≤ ⌊v * (m : ℚ) + 1 / 2⌋ := by omega
    _ ↔ (k : ℚ) ≤ v * (m : ℚ) + 1 / 2 := Int.le_floor
    _ ↔ 2 * (k : ℚ) - 1 ≤ v * (2 * (m : ℚ)) := by constructor <;> intro h <;> linarith
    _ ↔ (2 * (k : ℚ) - 1) / (2 * (m : ℚ)) ≤ v := (div_le_iff₀ hm).symm

/-! ## The tie -/

/-- An odd `m` divides the odd numerator `2k + 1` of a tie of a dyadic rational, so the tie is in the middle (R83). -/
theorem middle_of_dyadic_tie {num : Int} {j m k : Nat} (hm : m % 2 = 1) (hk : k < m)
    (h : 2 * num * (m : ℤ) = (2 * (k : ℤ) + 1) * 2 ^ j) : 2 * k + 1 = m := by
  have hdvd : (m : ℤ) ∣ ((2 * k + 1) * 2 ^ j : ℕ) := ⟨2 * num, by push_cast; linarith⟩
  have hcop : Nat.Coprime m (2 ^ j) := (Nat.coprime_two_right.mpr (Nat.odd_iff.mpr hm)).pow_right j
  obtain ⟨c, hc⟩ := hcop.dvd_of_dvd_mul_right (Int.natCast_dvd_natCast.mp hdvd)
  have hc2 : c < 2 := lt_of_mul_lt_mul_left (by omega : m * c < m * 2) (Nat.zero_le m)
  interval_cases c <;> omega

/-- A word is fixed by its sign, exponent and fraction. -/
theorem toNat_floatWord (w : FloatWord) :
    w.toNat = (if w.getLsbD 31 then 2 ^ 31 else 0) + floatExponent w * 2 ^ 23 + floatFraction w := by
  have hw := w.isLt
  rw [getLsbD_sign, floatExponent_eq, floatFraction_eq]
  simp only [decide_eq_true_eq]
  split <;> omega

theorem signed_pos_iff (s : Bool) (n : Nat) : 0 < signed s n ↔ s = false ∧ 0 < n := by
  cases s <;> simp [signed]

/-- A tie of a dyadic rational is in the middle of the range (R83). -/
theorem middle_of_tie {num : Int} {j m k : Nat} (hm : m % 2 = 1) (hk : k < m)
    (htie : (num : ℚ) / ((2 ^ j : ℕ) : ℚ) * (m : ℚ) = (k : ℚ) + 1 / 2) : 2 * k + 1 = m := by
  have hcleared : 2 * (num : ℚ) * (m : ℚ) = (2 * (k : ℚ) + 1) * ((2 ^ j : ℕ) : ℚ) := by
    have hden : ((2 ^ j : ℕ) : ℚ) ≠ 0 := by exact_mod_cast (Nat.two_pow_pos j).ne'
    field_simp at htie
    linarith
  exact middle_of_dyadic_tie (j := j) hm hk (by exact_mod_cast hcleared)

theorem eq_half_of_middle {v : ℚ} {m k : Nat} (hmid : 2 * k + 1 = m) (htie : v * (m : ℚ) = (k : ℚ) + 1 / 2) :
    v = 1 / 2 := by
  have hm : (m : ℚ) ≠ 0 := by exact_mod_cast (by omega : m ≠ 0)
  apply mul_right_cancel₀ hm
  rw [htie, ← hmid]
  push_cast
  ring

/-- A finite word whose denominator is twice its numerator is the word of one half. -/
theorem eq_half_of_fval {w : FloatWord} {num : Int} {den : Nat} (h : fval w = .finite num den)
    (hhalf : 2 * num = (den : ℤ)) : w = 0x3F000000 := by
  have hden := den_pos h
  have hf := floatFraction_lt w
  have hpos : 0 < num := by omega
  obtain ⟨rfl, rfl⟩ | ⟨rfl, rfl⟩ | rfl := fval_finite_cases h
  · -- a subnormal is too small: its fraction would be `2 ^ 148`
    obtain ⟨hs, -⟩ := (signed_pos_iff _ _).mp hpos
    rw [hs, signed_false] at hhalf
    norm_num at hhalf hf
    omega
  · -- the power of two lies between `2 ^ 24` and `2 ^ 25`, which fixes the exponent and then the fraction
    obtain ⟨hs, -⟩ := (signed_pos_iff _ _).mp hpos
    have heq : 2 * (2 ^ 23 + floatFraction w) = 2 ^ (150 - floatExponent w) := by
      rw [hs, signed_false] at hhalf
      exact_mod_cast hhalf
    have hlo : 24 ≤ 150 - floatExponent w :=
      (Nat.pow_le_pow_iff_right Nat.one_lt_two).mp (by omega : 2 ^ 24 ≤ 2 ^ (150 - floatExponent w))
    have hhi : 150 - floatExponent w < 25 :=
      (Nat.pow_lt_pow_iff_right Nat.one_lt_two).mp (by omega : 2 ^ (150 - floatExponent w) < 2 ^ 25)
    have he : floatExponent w = 126 := by omega
    have hfrac : floatFraction w = 0 := by rw [he] at heq; omega
    exact BitVec.eq_of_toNat_eq (by rw [toNat_floatWord, hs, he, hfrac]; rfl)
  · -- an integer is not one half
    omega

/-- One half has one binary32 word. -/
theorem eq_half_of_floatRat {w : FloatWord} (h : floatRat w = some (1 / 2)) : w = 0x3F000000 := by
  obtain ⟨num, den, hw, hv⟩ := fval_of_floatRat h
  have hden : (den : ℚ) ≠ 0 := by exact_mod_cast (den_pos hw).ne'
  rw [div_eq_div_iff two_ne_zero hden, one_mul, mul_comm] at hv
  exact eq_half_of_fval hw (by exact_mod_cast hv.symm)

/-- At a tie `quant` rounds up. -/
theorem quant_of_tie {w : FloatWord} {v : ℚ} {m k : Nat} (hv : floatRat w = some v) (hk : k < m)
    (htie : v * (m : ℚ) = (k : ℚ) + 1 / 2) : quant w m = k + 1 := by
  have hq := cast_quant_of_floatRat hv m
  rw [htie, show (k : ℚ) + 1 / 2 + 1 / 2 = ((k + 1 : ℤ) : ℚ) by push_cast; ring, Int.floor_intCast] at hq
  omega

/-- Settles O24: a tie is in the middle, so the value is one half, which has one word, and `quant` rounds it up. -/
theorem tieOnlyAtOneHalf : Obligations.TieOnlyAtOneHalf := by
  intro w m k v hm hk hv htie
  rw [valueRat_fval] at hv
  have hmid : 2 * k + 1 = m := by
    obtain ⟨num, den, hw, rfl⟩ := fval_of_floatRat hv
    obtain ⟨j, rfl⟩ := exists_den_eq_two_pow hw
    exact middle_of_tie (by omega) hk htie
  have hhalf : v = 1 / 2 := eq_half_of_middle hmid htie
  have hquant : quant w m = k + 1 := quant_of_tie hv hk htie
  exact ⟨eq_half_of_floatRat (hhalf ▸ hv), hhalf, by omega, hquant, by omega⟩

/-! ## `PACK565` -/

/-- The OR of three fields that do not overlap is their sum (R84). -/
theorem toNat_join565 {r g b : Nat} (hr : r < 32) (hg : g < 64) (hb : b < 32) :
    ((BitVec.ofNat 16 r <<< 11) ||| (BitVec.ofNat 16 g <<< 5) ||| BitVec.ofNat 16 b).toNat =
      r * 2048 + g * 32 + b := by
  have hrg : r <<< 11 ||| g <<< 5 = (r <<< 6 + g) <<< 5 := by
    rw [Nat.shiftLeft_add_eq_or_of_lt (i := 6) hg, Nat.shiftLeft_or_distrib, ← Nat.shiftLeft_add]
  simp only [BitVec.toNat_or, BitVec.toNat_shiftLeft, BitVec.toNat_ofNat]
  rw [Nat.mod_eq_of_lt (a := r) (by omega), Nat.mod_eq_of_lt (a := g) (by omega), Nat.mod_eq_of_lt (a := b) (by omega),
    Nat.mod_eq_of_lt (a := r <<< 11) (by omega), Nat.mod_eq_of_lt (a := g <<< 5) (by omega), hrg,
    ← Nat.shiftLeft_add_eq_or_of_lt (i := 5) hb]
  omega

theorem toNat_pack (c : Colour) :
    (pack c).toNat = quant (colourWord c 0) 31 * 2048 + quant (colourWord c 1) 63 * 32 + quant (colourWord c 2) 31 :=
  toNat_join565 (Nat.lt_succ_of_le (quant_le _ 31)) (Nat.lt_succ_of_le (quant_le _ 63))
    (Nat.lt_succ_of_le (quant_le _ 31))

/-- Each field of a packed colour is one quantised channel (R84). -/
theorem pack_fields (c : Colour) :
    (pack c).toNat / 2048 = quant (colourWord c 0) 31 ∧ (pack c).toNat / 32 % 64 = quant (colourWord c 1) 63 ∧
      (pack c).toNat % 32 = quant (colourWord c 2) 31 := by
  have hr := quant_le (colourWord c 0) 31
  have hg := quant_le (colourWord c 1) 63
  have hb := quant_le (colourWord c 2) 31
  rw [toNat_pack]
  refine ⟨?_, ?_, ?_⟩ <;> omega

/-- Settles O25: the operation only responds, with the three fields of the packed colour. -/
theorem pack565QuantisesEachChannel : Obligations.Pack565QuantisesEachChannel := fun s b l c hf =>
  ⟨Laws.TableRow.encode_masked _, pack s.cmd.ops.ca,
    (exec_pack565 hf b l c).trans (congrArg _ (respond_without_sink s _ rfl)), pack_fields s.cmd.ops.ca⟩

/-! ## `UNPACK565` and the expansion of a field -/

theorem quadChannel_rgbaPort (q : Rgba) (ch : Fin 4) : quadChannel (rgbaPort q) 0 ch = (rgbaChannel q ch).toNat := by
  rw [quadChannel, Nat.mul_zero, Nat.zero_add, extractLsb'_rgbaPort]

/-- Settles O26: the two bytes are the packed value, and the length is checked first. -/
theorem unpack565ExpandsTwoBytes : Obligations.Unpack565ExpandsTwoBytes := by
  intro s b l c hf
  refine ⟨Laws.TableRow.encode_masked _, fun hl => ⟨rgbaPort (unpack (memRead s.cmd.ops.blk 0 2)), ?_, ?_⟩,
    fun hl => ?_⟩
  · rw [exec_unpack565 hf, if_neg (not_not.mpr hl), respond_without_sink s _ rfl]
  · intro v hv ch
    obtain rfl : v = memRead s.cmd.ops.blk 0 2 := BitVec.eq_of_toNat_eq (hv.trans (toNat_memRead_two _ 0).symm)
    rw [quadChannel_rgbaPort, toNat_rgbaChannel_unpack]
  · rw [exec_unpack565 hf, if_pos hl, raiseContractFault_eq]

theorem toNat_unpack_r (v : Packed565) : (unpack v).r.toNat = v.toNat / 2048 * 8 + v.toNat / 2048 / 4 :=
  toNat_rgbaChannel_unpack v 0

theorem toNat_unpack_g (v : Packed565) : (unpack v).g.toNat = v.toNat / 32 % 64 * 4 + v.toNat / 32 % 64 / 16 :=
  toNat_rgbaChannel_unpack v 1

theorem toNat_unpack_b (v : Packed565) : (unpack v).b.toNat = v.toNat % 32 * 8 + v.toNat % 32 / 4 :=
  toNat_rgbaChannel_unpack v 2

/-- Replicating the bits of a 5-bit field is strictly increasing in it (R88). -/
theorem expand5_lt_iff (m n : Nat) : m < n ↔ m * 8 + m / 4 < n * 8 + n / 4 := by omega

/-- The same for a 6-bit field. -/
theorem expand6_lt_iff (m n : Nat) : m < n ↔ m * 4 + m / 16 < n * 4 + n / 16 := by omega

theorem byte_eq_zero_iff (v : Byte) : v = 0 ↔ v.toNat = 0 := BitVec.toNat_eq

theorem byte_eq_max_iff (v : Byte) : v = 255 ↔ v.toNat = 255 := BitVec.toNat_eq

/-- Settles O27: each channel is a strictly increasing sum of its field, whose ends are those of the field's range. -/
theorem expansionIsStrictlyIncreasing : Obligations.ExpansionIsStrictlyIncreasing := by
  intro a b
  simp only [byte_eq_zero_iff, byte_eq_max_iff, toNat_unpack_r, toNat_unpack_g, toNat_unpack_b]
  refine ⟨expand5_lt_iff _ _, expand6_lt_iff _ _, expand5_lt_iff _ _, ?_, ?_, ?_, ?_, ?_, ?_⟩ <;> omega

end Sys2Proof.Machine

/-!
SUPPORT. The block serializer: the digits of an index word, the two directions of the index formulas, and the fields of
a serialized block (spec 41_block_serializer.md).
-/
namespace Sys2Proof.Machine

/-! ## The index word as bytes and lanes -/

/-- Index 4i+j of an index word is digit j, base 4, of its byte i (R101). -/
theorem wordIndex_eq_byte_digit (w : IndexWord) (i : Nat) {j : Nat} (hj : j < 4) :
    wordIndex w (4 * i + j) = w.toNat / 256 ^ i % 256 / 4 ^ j % 4 := by
  rw [wordIndex, pow_add, pow_mul, ← Nat.div_div_eq_div_mul, show 4 ^ 4 = 256 from rfl]
  generalize w.toNat / 256 ^ i = v
  interval_cases j <;> omega

/-- Byte i of an index word holds indices 4i to 4i+3, the lowest-numbered in its low digit, base 4 (R100). -/
theorem indexWord_byte_eq_sum (w : IndexWord) (i : Nat) :
    w.toNat / 256 ^ i % 256 =
      wordIndex w (4 * i) + 4 * wordIndex w (4 * i + 1) + 16 * wordIndex w (4 * i + 2) +
        64 * wordIndex w (4 * i + 3) := by
  have h0 : wordIndex w (4 * i) = _ := wordIndex_eq_byte_digit w i (show 0 < 4 by decide)
  rw [h0, wordIndex_eq_byte_digit w i (show 1 < 4 by decide), wordIndex_eq_byte_digit w i (show 2 < 4 by decide),
    wordIndex_eq_byte_digit w i (show 3 < 4 by decide)]
  omega

/-! ## Packing and unpacking indices -/

theorem packIndices_indicesOfPort (w : IndexWord) : packIndices (indicesOfPort w) = w := by
  rw [packIndices_eq_portOfIndices, portOfIndices_indicesOfPort]

theorem portOfIndices_unpackIndices (w : IndexWord) : portOfIndices (unpackIndices w) = w := by
  rw [unpackIndices_eq_indicesOfPort, portOfIndices_indicesOfPort]

theorem unpackIndices_packIndices (f : IndexArray) : unpackIndices (packIndices f) = f := by
  rw [packIndices_eq_portOfIndices, unpackIndices_eq_indicesOfPort, indicesOfPort_portOfIndices]

theorem packIndices_unpackIndices (w : IndexWord) : packIndices (unpackIndices w) = w := by
  rw [packIndices_eq_portOfIndices, portOfIndices_unpackIndices]

/-- Settles O31: both formulas are the view of the index port as lanes, whose two directions are inverse. -/
theorem packingIndicesIsInvertible : Obligations.PackingIndicesIsInvertible :=
  ⟨unpackIndices_packIndices, packIndices_unpackIndices,
    fun w => ⟨packIndices_indicesOfPort w, portOfIndices_unpackIndices w⟩⟩

/-- Settles O29: the word packed is the word on `IDX`, whose bytes are sums of four indices each. -/
theorem idxpackPacksFourPerByte : Obligations.IdxpackPacksFourPerByte := by
  intro s b l c hf
  refine ⟨Laws.TableRow.encode_masked _, s.cmd.ops.idx, ?_, fun i _ => indexWord_byte_eq_sum _ i, rfl⟩
  rw [exec_idxpack hf, packIndices_indicesOfPort, respond_without_sink s _ rfl]

/-- Settles O30: the word on the result port is the word on `IDX`, whose indices are the digits of its bytes. -/
theorem idxunpackReadsEachLane : Obligations.IdxunpackReadsEachLane := by
  intro s b l c hf
  refine ⟨Laws.TableRow.encode_masked _, s.cmd.ops.idx, ?_, fun i j _ hj => wordIndex_eq_byte_digit _ i hj⟩
  rw [exec_idxunpack hf, portOfIndices_unpackIndices, respond_without_sink s _ rfl]

/-! ## The bytes of a serialized block -/

/-- Byte i of a wide read is the byte i places above its offset (20_memory.md R42). -/
theorem extractLsb'_memRead (b : Block) (k : Nat) {n i : Nat} (hi : i < n) :
    (memRead b k n).extractLsb' (8 * i) 8 = byteAt b (k + i) := by
  rw [memRead_eq_extractLsb', extractLsb'_extractLsb'_of_add_le _ (by omega), byteAt, Nat.mul_add]

theorem byteAt_wrblk_a (a b : Packed565) (f : IndexArray) {i : Nat} (hi : i < 2) :
    byteAt (wrblk a b f) i = a.extractLsb' (8 * i) 8 := by
  simpa [memRead_wrblk_a] using (extractLsb'_memRead (wrblk a b f) 0 hi).symm

theorem byteAt_wrblk_b (a b : Packed565) (f : IndexArray) {i : Nat} (hi : i < 2) :
    byteAt (wrblk a b f) (2 + i) = b.extractLsb' (8 * i) 8 := by
  rw [← extractLsb'_memRead _ _ hi, memRead_wrblk_b]

theorem byteAt_wrblk_indices (a b : Packed565) (f : IndexArray) {i : Nat} (hi : i < 4) :
    byteAt (wrblk a b f) (4 + i) = (portOfIndices f).extractLsb' (8 * i) 8 := by
  rw [← extractLsb'_memRead _ _ hi, memRead_wrblk_indices]

/-- Settles O32: each operand is read back from the bytes its write filled. -/
theorem wrblkStoresLittleEndian : Obligations.WrblkStoresLittleEndian := by
  intro s b l c hf
  refine ⟨Laws.TableRow.encode_masked _, wrblk s.cmd.ops.ea s.cmd.ops.eb (indicesOfPort s.cmd.ops.idx), ?_,
    byteAt_wrblk_a _ _ _ Nat.zero_lt_two, byteAt_wrblk_a _ _ _ Nat.one_lt_two, byteAt_wrblk_b _ _ _ Nat.zero_lt_two,
    byteAt_wrblk_b _ _ _ Nat.one_lt_two, fun i hi => ?_, ?_⟩
  · rw [exec_wrblk hf, respond_without_sink s _ rfl]
  · rw [byteAt_wrblk_indices _ _ _ hi, portOfIndices_indicesOfPort]
  · rw [wrblk_eq_append, portOfIndices_indicesOfPort]

/-! ## Reading a block back -/

/-- The two endpoints and the index word make up the whole block (20_memory.md R41). -/
theorem memRead_append (o : Block) : memRead o 4 4 ++ memRead o 2 2 ++ memRead o 0 2 = o := by
  simp only [memRead_eq_extractLsb']
  rw [BitVec.extractLsb'_append_extractLsb'_eq_extractLsb' (by decide),
    BitVec.extractLsb'_append_extractLsb'_eq_extractLsb' (by decide)]
  exact BitVec.extractLsb'_eq_self

/-- Serializing the three fields of a block gives the block. -/
theorem wrblk_memRead (o : Block) : wrblk (memRead o 0 2) (memRead o 2 2) (indicesOfPort (memRead o 4 4)) = o := by
  rw [wrblk_eq_append, portOfIndices_indicesOfPort, memRead_append]

/-- A serialized block determines its index array. -/
theorem indicesOfPort_memRead_wrblk (a b : Packed565) (f : IndexArray) :
    indicesOfPort (memRead (wrblk a b f) 4 4) = f := by
  rw [memRead_wrblk_indices, indicesOfPort_portOfIndices]

/-- Settles O33: the triple is the one read back from the three fields of the block. -/
theorem wrblkIsABijection : Obligations.WrblkIsABijection := by
  refine fun o => ⟨memRead o 0 2, memRead o 2 2, indicesOfPort (memRead o 4 4), wrblk_memRead o, ?_⟩
  rintro a b f rfl
  exact ⟨(memRead_wrblk_a a b f).symm, (memRead_wrblk_b a b f).symm, (indicesOfPort_memRead_wrblk a b f).symm⟩

end Sys2Proof.Machine

/-!
SUPPORT. The block encoder: the fields of a serialized block as bits of `OBLK`, what `WRITE3` and `WRITE4` serialize for
each order of the packed endpoints, and the two relabellings on the index word (spec 42_block_encoder.md).
-/
namespace Sys2Proof.Machine

/-! ## The three fields of a serialized block as bits of `OBLK` -/

theorem extractLsb'_wrblk_a (a b : Packed565) (f : IndexArray) : (wrblk a b f).extractLsb' 0 16 = a :=
  (memRead_eq_extractLsb' _ 2 0).symm.trans (memRead_wrblk_a a b f)

theorem extractLsb'_wrblk_b (a b : Packed565) (f : IndexArray) : (wrblk a b f).extractLsb' 16 16 = b :=
  (memRead_eq_extractLsb' _ 2 2).symm.trans (memRead_wrblk_b a b f)

theorem extractLsb'_wrblk_indices (a b : Packed565) (f : IndexArray) :
    (wrblk a b f).extractLsb' 32 32 = portOfIndices f :=
  (memRead_eq_extractLsb' _ 4 4).symm.trans (memRead_wrblk_indices a b f)

/-- Indices stored as given are the word of their port. -/
theorem extractLsb'_wrblk_indicesOfPort (a b : Packed565) (w : IndexWord) :
    (wrblk a b (indicesOfPort w)).extractLsb' 32 32 = w := by
  rw [extractLsb'_wrblk_indices, portOfIndices_indicesOfPort]

theorem extractLsb'_wrblk_endpoints (a b : Packed565) (f : IndexArray) :
    (wrblk a b f).extractLsb' 0 32 = b ++ a := by
  rw [wrblk_eq_append, BitVec.append_assoc]
  exact BitVec.extractLsb'_append_eq_right

/-- An instruction that delivers a block was not refused. -/
theorem clear_of_delivers_block {i : Instr} {s t : State} {o : Block} (he : exec i s = .next t)
    (ho : t.rsp.oblk = some o) : s.fsr.f = false := by
  by_contra hf
  obtain rfl : refuse s = t := Host.Outcome.next.inj ((exec_of_latched (by simpa using hf) i).symm.trans he)
  simp at ho

/-! ## The two relabellings -/

theorem remap3_remap3 : ∀ i : BitVec 2, remap3 (remap3 i) = i := by decide

theorem remap4_remap4 : ∀ i : BitVec 2, remap4 (remap4 i) = i := by decide

/-- `remap3` on the value of an index (R122). -/
theorem toNat_remap3 : ∀ i : BitVec 2,
    (remap3 i).toNat = if i.toNat = 0 then 1 else if i.toNat = 1 then 0 else i.toNat := by decide

/-- The mask of R125 keeps every bit of an index. -/
theorem remap4_eq_xor : ∀ i : BitVec 2, remap4 i = i ^^^ 1 := by decide

/-- On the whole index word, `remap4` of every lane is an XOR with `0x55555555` (R125). -/
theorem indicesOfPort_xor_ones (w : IndexWord) :
    indicesOfPort (w ^^^ 0x55555555) = fun p => remap4 (indicesOfPort w p) := by
  have hones : ∀ p, indicesOfPort 0x55555555 p = 1 := by decide
  funext p
  rw [remap4_eq_xor, ← hones p]
  exact BitVec.extractLsb'_xor

theorem portOfIndices_remap4 (w : IndexWord) :
    portOfIndices (fun p => remap4 (indicesOfPort w p)) = w ^^^ 0x55555555 := by
  rw [← indicesOfPort_xor_ones, portOfIndices_indicesOfPort]

/-! ## What `WRITE3` serializes for each order of the packed endpoints (R121) -/

section Write3

variable {start stop : Colour}

theorem write3Block_of_above (h : (pack stop).toNat < (pack start).toNat) (f : IndexArray) :
    write3Block start stop f = wrblk (pack stop) (pack start) (fun p => remap3 (f p)) :=
  if_pos ((packedBelow_iff _ _).mpr h)

theorem write3Block_of_le (h : (pack start).toNat ≤ (pack stop).toNat) (f : IndexArray) :
    write3Block start stop f = wrblk (pack start) (pack stop) f :=
  if_neg (mt (packedBelow_iff _ _).mp h.not_gt)

/-- The ordering invariant of 3-colour mode (R123). -/
theorem write3Block_ascending (start stop : Colour) (f : IndexArray) :
    ((write3Block start stop f).extractLsb' 0 16).toNat ≤ ((write3Block start stop f).extractLsb' 16 16).toNat := by
  rcases lt_or_ge (pack stop).toNat (pack start).toNat with h | h
  · rw [write3Block_of_above h, extractLsb'_wrblk_a, extractLsb'_wrblk_b]
    exact h.le
  · rw [write3Block_of_le h, extractLsb'_wrblk_a, extractLsb'_wrblk_b]
    exact h

/-- Exchanging different packed endpoints and relabelling gives the same block (R128). -/
theorem write3Block_swap (hne : pack start ≠ pack stop) (f : IndexArray) :
    write3Block stop start (fun p => remap3 (f p)) = write3Block start stop f := by
  rcases Nat.lt_or_gt_of_ne (mt BitVec.eq_of_toNat_eq hne) with h | h
  · simp only [write3Block_of_above h, write3Block_of_le h.le, remap3_remap3]
  · rw [write3Block_of_le h.le, write3Block_of_above h]

end Write3

/-- Settles O34: the two branches of the encoder, read back field by field. -/
theorem write3OrdersAndRelabels : Obligations.Write3OrdersAndRelabels := by
  intro s b l c hf
  refine ⟨Laws.TableRow.encode_masked _, write3Block s.cmd.ops.ca s.cmd.ops.cb (indicesOfPort s.cmd.ops.idx), ?_,
    fun h => ?_, fun h => ?_⟩
  · rw [exec_write3 hf, respond_without_sink s _ rfl]
  · rw [write3Block_of_above h]
    refine ⟨extractLsb'_wrblk_a _ _ _, extractLsb'_wrblk_b _ _ _, fun p hp => ?_⟩
    rw [extractLsb'_wrblk_indices, ← toNat_indicesOfPort _ ⟨p, hp⟩, ← toNat_indicesOfPort _ ⟨p, hp⟩,
      indicesOfPort_portOfIndices, toNat_remap3]
  · rw [write3Block_of_le h]
    exact ⟨extractLsb'_wrblk_a _ _ _, extractLsb'_wrblk_b _ _ _, extractLsb'_wrblk_indicesOfPort _ _ _⟩

/-- Settles O35: a delivered block is `write3Block` of the operands, whose endpoints ascend. -/
theorem write3BlockHasAAtMostB : Obligations.Write3BlockHasAAtMostB := by
  intro s t b l c o he ho
  cases (exec_write3 (clear_of_delivers_block he ho) b l c).symm.trans he
  cases ho
  exact write3Block_ascending _ _ _

/-- Settles O39: different packed endpoints give one block; equal ones are stored without a relabelling. -/
theorem write3SwapLaw : Obligations.Write3SwapLaw := by
  intro s u b b' l l' c c' hs hu hca hcb hidx
  refine ⟨_, _, _, _, exec_write3 hs b l c, exec_write3 hu b' l' c', rfl, rfl, ?_⟩
  rw [hca, hcb]
  refine ⟨fun hne => ?_, fun heq => ?_⟩
  · rw [funext hidx, write3Block_swap hne]
  · have hnat := congrArg BitVec.toNat heq
    rw [write3Block_of_le hnat.le, write3Block_of_le hnat.ge]
    exact ⟨by rw [extractLsb'_wrblk_endpoints, extractLsb'_wrblk_endpoints, heq],
      extractLsb'_wrblk_indicesOfPort _ _ _, extractLsb'_wrblk_indicesOfPort _ _ _⟩

/-! ## What `WRITE4` serializes for each order of the packed endpoints (R124) -/

section Write4

variable {start stop : Colour}

theorem write4Block_of_below (h : (pack start).toNat < (pack stop).toNat) (f : IndexArray) :
    write4Block start stop f = wrblk (pack stop) (pack start) (fun p => remap4 (f p)) :=
  if_pos ((packedBelow_iff _ _).mpr h)

theorem write4Block_of_above (h : (pack stop).toNat < (pack start).toNat) (f : IndexArray) :
    write4Block start stop f = wrblk (pack start) (pack stop) f :=
  (if_neg (mt (packedBelow_iff _ _).mp h.le.not_gt)).trans (if_pos ((packedBelow_iff _ _).mpr h))

theorem write4Block_of_eq (h : pack start = pack stop) (f : IndexArray) :
    write4Block start stop f = wrblk (pack start) (pack stop) (fun _ => 0) := by
  have hnat := congrArg BitVec.toNat h
  exact (if_neg (mt (packedBelow_iff _ _).mp hnat.ge.not_gt)).trans
    (if_neg (mt (packedBelow_iff _ _).mp hnat.le.not_gt))

/-- Two packed endpoints are in one of the three orders of R124. -/
theorem pack_trichotomy (start stop : Colour) :
    (pack start).toNat < (pack stop).toNat ∨ pack start = pack stop ∨ (pack stop).toNat < (pack start).toNat :=
  (lt_trichotomy _ _).imp_right (Or.imp_left BitVec.eq_of_toNat_eq)

/-- The ordering invariant of 4-colour mode (R126). -/
theorem write4Block_descending (start stop : Colour) (f : IndexArray) :
    ((write4Block start stop f).extractLsb' 16 16).toNat < ((write4Block start stop f).extractLsb' 0 16).toNat ∨
    ((write4Block start stop f).extractLsb' 0 16 = (write4Block start stop f).extractLsb' 16 16 ∧
      (write4Block start stop f).extractLsb' 32 32 = 0#32) := by
  rcases pack_trichotomy start stop with h | h | h
  · rw [write4Block_of_below h, extractLsb'_wrblk_a, extractLsb'_wrblk_b]
    exact .inl h
  · rw [write4Block_of_eq h, extractLsb'_wrblk_a, extractLsb'_wrblk_b, extractLsb'_wrblk_indices]
    exact .inr ⟨h, rfl⟩
  · rw [write4Block_of_above h, extractLsb'_wrblk_a, extractLsb'_wrblk_b]
    exact .inl h

/-- Exchanging the endpoints and relabelling gives the same block (R127). -/
theorem write4Block_swap (start stop : Colour) (f : IndexArray) :
    write4Block stop start (fun p => remap4 (f p)) = write4Block start stop f := by
  rcases pack_trichotomy start stop with h | h | h
  · rw [write4Block_of_above h, write4Block_of_below h]
  · rw [write4Block_of_eq h, write4Block_of_eq h.symm, h]
  · simp only [write4Block_of_below h, write4Block_of_above h, remap4_remap4]

end Write4

/-- Settles O36: the three branches of the encoder, read back field by field. -/
theorem write4OrdersAndRelabels : Obligations.Write4OrdersAndRelabels := by
  intro s b l c hf
  refine ⟨Laws.TableRow.encode_masked _, write4Block s.cmd.ops.ca s.cmd.ops.cb (indicesOfPort s.cmd.ops.idx), ?_,
    fun h => ?_, fun h => ?_, fun h => ?_⟩
  · rw [exec_write4 hf, respond_without_sink s _ rfl]
  · rw [write4Block_of_below h]
    exact ⟨extractLsb'_wrblk_a _ _ _, extractLsb'_wrblk_b _ _ _,
      (extractLsb'_wrblk_indices _ _ _).trans (portOfIndices_remap4 _)⟩
  · rw [write4Block_of_above h]
    exact ⟨extractLsb'_wrblk_a _ _ _, extractLsb'_wrblk_b _ _ _, extractLsb'_wrblk_indicesOfPort _ _ _⟩
  · rw [write4Block_of_eq h]
    exact ⟨extractLsb'_wrblk_a _ _ _, extractLsb'_wrblk_b _ _ _, extractLsb'_wrblk_indices _ _ _⟩

/-- Settles O37: a delivered block is `write4Block` of the operands, whose endpoints descend. -/
theorem write4BlockHasAAboveB : Obligations.Write4BlockHasAAboveB := by
  intro s t b l c o he ho
  cases (exec_write4 (clear_of_delivers_block he ho) b l c).symm.trans he
  cases ho
  exact write4Block_descending _ _ _

/-- Settles O38: the exchanged index word carries the relabelled indices. -/
theorem write4IsSwapConsistent : Obligations.Write4IsSwapConsistent := by
  intro s u b b' l l' c c' hs hu hca hcb hidx
  refine ⟨_, _, _, exec_write4 hs b l c, exec_write4 hu b' l' c', rfl, congrArg some ?_⟩
  rw [hca, hcb, hidx, indicesOfPort_xor_ones, write4Block_swap]

end Sys2Proof.Machine

/-!
SUPPORT. The palette interpolator: the slots of `PAL`, every channel of a derived palette against the reference of R145,
the bounds of a blend, and the palette of equal endpoints (spec 43_palette_interpolator.md).
-/
namespace Sys2Proof.Machine

/-! ## The slots of the palette port -/

/-- `PAL[i]` is the quad of slot i (10_state.md R22). -/
theorem extractLsb'_palettePort (p : Palette) (i : BitVec 2) :
    (palettePort p).extractLsb' (32 * i.toNat) 32 = rgbaPort (paletteSlot p i) := by
  rw [palettePort]
  match i with
  | 0 | 1 | 2 | 3 =>
    simp (disch := decide) only [BitVec.extractLsb'_append_eq_of_le, BitVec.extractLsb'_append_eq_of_add_le]
    exact BitVec.extractLsb'_eq_self

theorem quadChannel_palettePort (p : Palette) (i : BitVec 2) (ch : Fin 4) :
    quadChannel (palettePort p) i.toNat ch = (rgbaChannel (paletteSlot p i) ch).toNat := by
  rw [quadChannel, ← extractLsb'_extractLsb'_of_add_le _ (m := 32) (by omega), extractLsb'_palettePort,
    extractLsb'_rgbaPort]

/-! ## Every channel of a derived palette (R145) -/

/-- 3-colour mode is what the reference tests on naturals (R140). -/
theorem threeColour_iff (isBc1 : Bool) (a b : Packed565) :
    threeColour isBc1 a b = true ↔ isBc1 = true ∧ a.toNat ≤ b.toNat := by
  cases isBc1 with
  | false => simp [threeColour]
  | true => simpa using threeColour_bc1_iff a b

section Reference

variable {a b : Packed565} {isBc1 : Bool} (ch : Fin 4)

theorem paletteChannel_two_of_threeColour (h : threeColour isBc1 a b = true) :
    paletteChannel a b isBc1 2 ch = (expandedChannel a ch + expandedChannel b ch) / 2 :=
  if_pos ((threeColour_iff _ _ _).mp h)

theorem paletteChannel_three_of_threeColour (h : threeColour isBc1 a b = true) : paletteChannel a b isBc1 3 ch = 0 :=
  if_pos ((threeColour_iff _ _ _).mp h)

theorem paletteChannel_two_of_fourColour (h : threeColour isBc1 a b = false) :
    paletteChannel a b isBc1 2 ch = (2 * expandedChannel a ch + expandedChannel b ch) / 3 :=
  if_neg (mt (threeColour_iff _ _ _).mpr (by simp [h]))

theorem paletteChannel_three_of_fourColour (h : threeColour isBc1 a b = false) :
    paletteChannel a b isBc1 3 ch = (expandedChannel a ch + 2 * expandedChannel b ch) / 3 :=
  if_neg (mt (threeColour_iff _ _ _).mpr (by simp [h]))

end Reference

/-- The slots of a derived palette are those of R145, in both modes. -/
theorem toNat_rgbaChannel_derivePalette (a b : Packed565) (isBc1 : Bool) (i ch : Fin 4) :
    (rgbaChannel (paletteSlot (derivePalette a b isBc1) (.ofFin i)) ch).toNat = paletteChannel a b isBc1 i ch := by
  cases h : threeColour isBc1 a b with
  | true =>
    rw [derivePalette_of_threeColour h]
    match i with
    | 0 => exact toNat_rgbaChannel_unpack a ch
    | 1 => exact toNat_rgbaChannel_unpack b ch
    | 2 => exact (toNat_rgbaChannel_average a b ch).trans (paletteChannel_two_of_threeColour ch h).symm
    | 3 =>
      exact (congrArg BitVec.toNat (rgbaChannel_transparentBlack ch)).trans
        (paletteChannel_three_of_threeColour ch h).symm
  | false =>
    rw [derivePalette_of_fourColour h]
    match i with
    | 0 => exact toNat_rgbaChannel_unpack a ch
    | 1 => exact toNat_rgbaChannel_unpack b ch
    | 2 => exact (toNat_rgbaChannel_blend21 a b ch).trans (paletteChannel_two_of_fourColour ch h).symm
    | 3 =>
      rw [paletteChannel_three_of_fourColour ch h, Nat.add_comm]
      exact toNat_rgbaChannel_blend21 b a ch

/-- The same on the port, where channel ch of slot i is read. -/
theorem quadChannel_derivePalette (a b : Packed565) (isBc1 : Bool) (i ch : Fin 4) :
    quadChannel (palettePort (derivePalette a b isBc1)) i.val ch = paletteChannel a b isBc1 i ch :=
  (quadChannel_palettePort _ (.ofFin i) ch).trans (toNat_rgbaChannel_derivePalette a b isBc1 i ch)

/-- Settles O40: the port carries the palette derived from `EA` and `EB`, whose channels are the reference's. -/
theorem paletteDerivesFourSlots : Obligations.PaletteDerivesFourSlots := by
  intro s b l c hf
  refine ⟨Laws.TableRow.encode_masked _, palettePort (derivePalette s.cmd.ops.ea s.cmd.ops.eb b), ?_,
    quadChannel_derivePalette _ _ _⟩
  rw [exec_palette hf, respond_without_sink s _ rfl]

/-! ## A blend lies between the endpoints (R144) -/

theorem paletteChannel_two_between (a b : Packed565) (isBc1 : Bool) (ch : Fin 4) :
    min (expandedChannel a ch) (expandedChannel b ch) ≤ paletteChannel a b isBc1 2 ch ∧
    paletteChannel a b isBc1 2 ch ≤ max (expandedChannel a ch) (expandedChannel b ch) := by
  cases h : threeColour isBc1 a b with
  | true => rw [paletteChannel_two_of_threeColour ch h]; omega
  | false => rw [paletteChannel_two_of_fourColour ch h]; omega

theorem paletteChannel_three_between {a b : Packed565} {isBc1 : Bool} (h : threeColour isBc1 a b = false)
    (ch : Fin 4) :
    min (expandedChannel a ch) (expandedChannel b ch) ≤ paletteChannel a b isBc1 3 ch ∧
    paletteChannel a b isBc1 3 ch ≤ max (expandedChannel a ch) (expandedChannel b ch) := by
  rw [paletteChannel_three_of_fourColour ch h]
  omega

/-- Settles O41: slots 0 and 1 show the endpoints' channels, and a truncated weighted mean stays between them. -/
theorem blendsLieBetweenEndpoints : Obligations.BlendsLieBetweenEndpoints := by
  intro x y b i ch hi
  have hx : quadChannel (palettePort (derivePalette x y b)) 0 ch = expandedChannel x ch :=
    quadChannel_derivePalette x y b 0 ch
  have hy : quadChannel (palettePort (derivePalette x y b)) 1 ch = expandedChannel y ch :=
    quadChannel_derivePalette x y b 1 ch
  rw [hx, hy, quadChannel_derivePalette]
  rcases hi with rfl | ⟨rfl, h⟩
  · exact paletteChannel_two_between x y b ch
  · exact paletteChannel_three_between h ch

/-! ## The palette of equal endpoints (R147) -/

theorem average_self (c : Byte) : average c c = c := by
  refine BitVec.eq_of_toNat_eq ?_
  rw [toNat_average]
  omega

theorem blend21_self (c : Byte) : blend21 c c = c := by
  refine BitVec.eq_of_toNat_eq ?_
  rw [toNat_blend21]
  omega

/-- Mixing an expanded endpoint with itself gives it back, alpha included: it is opaque (40_endpoint_packer.md R86). -/
theorem mixOpaque_unpack_self {mix : Byte → Byte → Byte} (hmix : ∀ c, mix c c = c) (v : Packed565) :
    mixOpaque mix (unpack v) (unpack v) = unpack v := by
  rw [mixOpaque, hmix, hmix, hmix]
  rfl

theorem derivePalette_self (v : Packed565) (isBc1 : Bool) :
    derivePalette v v isBc1 =
      { slot0 := unpack v, slot1 := unpack v, slot2 := unpack v,
        slot3 := if isBc1 then transparentBlack else unpack v } := by
  cases isBc1 with
  | true =>
    rw [derivePalette_of_threeColour ((threeColour_bc1_iff v v).mpr le_rfl), threeColourPalette,
      mixOpaque_unpack_self average_self]
    rfl
  | false =>
    rw [derivePalette_of_fourColour rfl, fourColourPalette, mixOpaque_unpack_self blend21_self]
    rfl

theorem rgbaPort_transparentBlack : rgbaPort transparentBlack = 0#32 := by decide

/-- Slots 0, 1 and 2 of equal endpoints carry the endpoint's own quad. -/
theorem extractLsb'_derivePalette_self_of_ne (v : Packed565) (isBc1 : Bool) {i : BitVec 2} (hi : i ≠ 3) :
    (palettePort (derivePalette v v isBc1)).extractLsb' (32 * i.toNat) 32 = rgbaPort (unpack v) := by
  rw [extractLsb'_palettePort, derivePalette_self]
  match i with
  | 0 | 1 | 2 => rfl
  | 3 => exact absurd rfl hi

/-- Slot 3 of equal endpoints is zero under BC1 semantics only. -/
theorem extractLsb'_derivePalette_self_three (v : Packed565) (isBc1 : Bool) :
    (palettePort (derivePalette v v isBc1)).extractLsb' 96 32 = if isBc1 then 0#32 else rgbaPort (unpack v) := by
  have hport := extractLsb'_palettePort (derivePalette v v isBc1) 3
  rw [derivePalette_self] at hport ⊢
  cases isBc1 with
  | true => exact hport.trans rgbaPort_transparentBlack
  | false => exact hport

/-- Settles O42: slots 0, 1 and 2 are the endpoint's quad, whose alpha byte is 255; slot 3 depends on the semantics. -/
theorem equalEndpointsPalette : Obligations.EqualEndpointsPalette := by
  intro s b l c hf he
  refine ⟨_, _, exec_palette hf b l c, rfl, ?_⟩
  rw [← he]
  generalize s.cmd.ops.ea = v
  have hslot0 : (palettePort (derivePalette v v b)).extractLsb' 0 32 = rgbaPort (unpack v) :=
    extractLsb'_derivePalette_self_of_ne v b (i := 0) (by decide)
  refine ⟨?_, ?_, ?_, ?_⟩
  · exact (extractLsb'_extractLsb'_of_add_le _ (k := 0) (m := 32) (by decide)).symm.trans
      ((congrArg (BitVec.extractLsb' 24 8) hslot0).trans (extractLsb'_rgbaPort _ 3))
  · exact (extractLsb'_derivePalette_self_of_ne v b (i := 1) (by decide)).trans hslot0.symm
  · exact (extractLsb'_derivePalette_self_of_ne v b (i := 2) (by decide)).trans hslot0.symm
  · rw [extractLsb'_derivePalette_self_three, hslot0]

end Sys2Proof.Machine

/-!
SUPPORT. The block decompressor: the stored fields as bits of `BLK`, the pixels of the tile, the numbering of its sink
writes, and the punch-through pixels (spec 44_block_decompressor.md).
-/
namespace Sys2Proof.Machine

/-- `DECOMP` on a whole block with channels enough passes both checks (R164). -/
theorem exec_decomp_of_checks {s : State} (hf : s.fsr.f = false) (b : Bool) {c : Nat} (hc : 4 ≤ c) :
    exec (.decomp b 8 c) s = .next (respond s (decompResponse s.cmd.ops.blk b)) := by
  rw [exec_decomp hf, if_neg (not_not.mpr rfl), if_neg (not_lt.mpr hc)]

/-! ## The stored fields as bits of `BLK` (R161 steps 1 to 3) -/

theorem blockPalette_eq (blk : Block) (isBc1 : Bool) :
    blockPalette blk isBc1 = derivePalette (blk.extractLsb' 0 16) (blk.extractLsb' 16 16) isBc1 := by
  rw [blockPalette, memRead_eq_extractLsb', memRead_eq_extractLsb']

theorem blockIndices_eq (blk : Block) : blockIndices blk = indicesOfPort (blk.extractLsb' 32 32) := by
  rw [blockIndices, unpackIndices_eq_indicesOfPort, memRead_eq_extractLsb']

theorem portOfIndices_blockIndices (blk : Block) : portOfIndices (blockIndices blk) = blk.extractLsb' 32 32 := by
  rw [blockIndices_eq, portOfIndices_indicesOfPort]

theorem toNat_blockIndices (blk : Block) (p : Fin 16) :
    (blockIndices blk p).toNat = wordIndex (blk.extractLsb' 32 32) p.val := by
  rw [blockIndices_eq, toNat_indicesOfPort]

/-- `PIX[p]` is the slot of `PAL` that index p selects (R161 step 4). -/
theorem extractLsb'_pixelPort_blockPixel (blk : Block) (isBc1 : Bool) (p : Fin 16) :
    (pixelPort (blockPixel blk isBc1)).extractLsb' (32 * p.val) 32 =
      (palettePort (blockPalette blk isBc1)).extractLsb' (32 * wordIndex (blk.extractLsb' 32 32) p.val) 32 := by
  rw [extractLsb'_pixelPort, blockPixel, ← toNat_blockIndices, extractLsb'_palettePort]

/-- Settles O43: the response of a `DECOMP` that passes its checks, port by port. -/
theorem decompResolvesEveryPixel : Obligations.DecompResolvesEveryPixel := by
  intro s b c hf hc
  refine ⟨palettePort (blockPalette s.cmd.ops.blk b), pixelPort (blockPixel s.cmd.ops.blk b),
    tileWrites (blockPixel s.cmd.ops.blk b), ?_, fun i ch => ?_, fun p hp => ?_⟩
  · rw [exec_decomp_of_checks hf b hc, ← portOfIndices_blockIndices]
    rfl
  · rw [blockPalette_eq, quadChannel_derivePalette]
  · exact extractLsb'_pixelPort_blockPixel _ b ⟨p, hp⟩

/-! ## The numbering of the sink writes (R162) -/

section Tile

variable (f : Fin 16 → Rgba)

/-- Write number n of a tile: channel `n mod 4` of pixel `n / 4`. -/
def tileWrite (n : Fin (16 * 4)) : SinkWrite := pixelWrite f n.divNat n.modNat

theorem tileWrites_eq_ofFn : tileWrites f = List.ofFn (tileWrite f) := by
  have hsplit (p : Fin 16) (ch : Fin 4) (h : p.val * 4 + ch.val < 16 * 4) :
      tileWrite f ⟨p.val * 4 + ch.val, h⟩ = pixelWrite f p ch :=
    congrArg₂ (pixelWrite f) (Fin.ext (by simp only [Fin.coe_divNat]; omega))
      (Fin.ext (by simp only [Fin.coe_modNat]; omega))
  rw [List.ofFn_mul]
  simp only [hsplit, tileWrites, List.flatMap_def, List.ofFn_eq_map]

/-- The bytes of the pixel port are the channels of the pixels (30_encoding.md R67, 10_state.md R22). -/
theorem extractLsb'_pixelPort_channel (p : Fin 16) (ch : Fin 4) :
    (pixelPort f).extractLsb' (32 * p.val + 8 * ch.val) 8 = rgbaChannel (f p) ch := by
  rw [← extractLsb'_extractLsb'_of_add_le _ (m := 32) (by omega), extractLsb'_pixelPort, extractLsb'_rgbaPort]

/-- Write number n carries byte n of `PIX` (R163). -/
theorem tileWrite_v (n : Fin (16 * 4)) : (tileWrite f n).v = (pixelPort f).extractLsb' (8 * n.val) 8 := by
  have hbyte : 8 * n.val = 32 * n.divNat.val + 8 * n.modNat.val := by
    rw [Fin.coe_divNat, Fin.coe_modNat]
    omega
  rw [hbyte, extractLsb'_pixelPort_channel]
  rfl

theorem tileWrites_getElem? {n : Nat} (hn : n < 64) :
    (tileWrites f)[n]? = some {
      x := BitVec.ofNat 2 (n / 4 % 4), y := BitVec.ofNat 2 (n / 16), ch := BitVec.ofNat 2 (n % 4),
      v := (pixelPort f).extractLsb' (8 * n) 8 } := by
  rw [tileWrites_eq_ofFn, List.getElem?_ofFn, dif_pos hn, ← tileWrite_v f ⟨n, hn⟩,
    show n / 16 = n / 4 / 4 by omega]
  rfl

/-- The number of the write that goes to location (x, y, ch). -/
def writeNumber (x y ch : BitVec 2) : Fin (16 * 4) := ⟨16 * y.toNat + 4 * x.toNat + ch.toNat, by omega⟩

/-- A write goes to (x, y, ch) exactly when its number is that location's. -/
theorem tileWrite_location (n : Fin (16 * 4)) (x y ch : BitVec 2) :
    ((tileWrite f n).x == x && (tileWrite f n).y == y && (tileWrite f n).ch == ch) =
      (n == writeNumber x y ch) := by
  rw [Bool.eq_iff_iff]
  simp only [Bool.and_eq_true, beq_iff_eq, BitVec.toNat_eq, Fin.ext_iff, tileWrite, pixelWrite, writeNumber,
    BitVec.toNat_ofNat, Fin.coe_divNat, Fin.coe_modNat]
  omega

/-- Each location is written once, by the write of its number (R162). -/
theorem writtenAt_tileWrites (x y ch : BitVec 2) :
    writtenAt (tileWrites f) x y ch = [(tileWrite f (writeNumber x y ch)).v] := by
  have honce : (List.finRange (16 * 4)).count (writeNumber x y ch) = 1 :=
    List.count_eq_one_of_mem (List.nodup_finRange _) (List.mem_finRange _)
  rw [writtenAt, tileWrites_eq_ofFn, List.ofFn_eq_map, List.filter_map]
  simp only [Function.comp_def, tileWrite_location, List.filter_beq, honce]
  rfl

end Tile

/-- Settles O44: the tile is a list of numbered writes, each with its byte of `PIX`. -/
theorem sinkWritesAreInRowMajorOrder : Obligations.SinkWritesAreInRowMajorOrder := fun _ b _ hf hc =>
  ⟨_, _, _, exec_decomp_of_checks hf b hc, rfl, rfl, rfl, length_tileWrites _, fun _ => tileWrites_getElem? _⟩

/-- Settles O45: one write has the location's number, and it carries the byte of that number. -/
theorem eachSinkLocationIsWrittenOnce : Obligations.EachSinkLocationIsWrittenOnce := by
  intro s b c hf hc
  refine ⟨_, _, _, exec_decomp_of_checks hf b hc, rfl, rfl, fun x y ch => ?_⟩
  have hbyte : 8 * (writeNumber x y ch).val = 32 * (4 * y.toNat + x.toNat) + 8 * ch.toNat := by
    simp only [writeNumber]
    omega
  rw [writtenAt_tileWrites, tileWrite_v, hbyte]

/-! ## The punch-through pixels (R165, R166) -/

theorem paletteSlot_derivePalette_three {a b : Packed565} {isBc1 : Bool} (h : threeColour isBc1 a b = true) :
    paletteSlot (derivePalette a b isBc1) 3 = transparentBlack := by
  rw [derivePalette_of_threeColour h]
  rfl

/-- Every slot but slot 3 of 3-colour mode is opaque. -/
theorem alpha_paletteSlot_derivePalette {a b : Packed565} {isBc1 : Bool} {i : BitVec 2}
    (h : ¬ (threeColour isBc1 a b = true ∧ i = 3)) : (paletteSlot (derivePalette a b isBc1) i).a = 255 := by
  cases h3 : threeColour isBc1 a b with
  | true =>
    rw [derivePalette_of_threeColour h3]
    match i with
    | 0 | 1 | 2 => rfl
    | 3 => exact absurd ⟨h3, rfl⟩ h
  | false =>
    rw [derivePalette_of_fourColour h3]
    match i with
    | 0 | 1 | 2 | 3 => rfl

/-- The condition of R166 is 3-colour mode and index 3. -/
theorem punchThrough_iff (blk : Block) (isBc1 : Bool) (p : Fin 16) :
    (isBc1 = true ∧ (blk.extractLsb' 0 16).toNat ≤ (blk.extractLsb' 16 16).toNat ∧
        wordIndex (blk.extractLsb' 32 32) p.val = 3) ↔
      threeColour isBc1 (blk.extractLsb' 0 16) (blk.extractLsb' 16 16) = true ∧ blockIndices blk p = 3 := by
  rw [threeColour_iff, and_assoc, ← toNat_blockIndices, BitVec.toNat_eq]
  rfl

/-- Settles O46: a pixel is the slot its index selects, and only slot 3 of 3-colour mode is not opaque. -/
theorem onlyPunchThroughPixelsAreTransparent : Obligations.OnlyPunchThroughPixelsAreTransparent := by
  intro s b c hf hc
  refine ⟨_, _, exec_decomp_of_checks hf b hc, rfl, fun p hp => ?_⟩
  split
  case isTrue h =>
    obtain ⟨h3, hi⟩ := (punchThrough_iff _ b ⟨p, hp⟩).mp h
    rw [extractLsb'_pixelPort _ ⟨p, hp⟩, blockPixel, blockPalette_eq, hi, paletteSlot_derivePalette_three h3,
      rgbaPort_transparentBlack]
  case isFalse h =>
    have halpha := alpha_paletteSlot_derivePalette (mt (punchThrough_iff _ b ⟨p, hp⟩).mpr h)
    rw [quadChannel_pixelPort _ ⟨p, hp⟩, blockPixel, blockPalette_eq]
    exact congrArg BitVec.toNat halpha

end Sys2Proof.Machine

/-!
SUPPORT. The latch over one step and over a run without reset, and the checks that raise a fault (spec
60_exceptions.md R182 to R188, R196).
-/
namespace Sys2Proof.Machine

/-! ## The checks -/

/-- Settles O47: the length is the first check of `DECOMP`, the channel count the second. -/
theorem decompChecksLengthThenChannels : Obligations.DecompChecksLengthThenChannels := by
  refine fun s b l c hf => ⟨fun hl => ?_, fun hl hc => ?_⟩
  · rw [exec_decomp hf, if_pos hl, raiseContractFault_eq]
  · rw [exec_decomp hf, if_neg (not_not.mpr hl), if_pos hc, raiseContractFault_eq]

/-- The seven operations without a check of their own only respond, and with `OK` (R196). -/
theorem exec_unchecked {i : Instr} (hunpack : mnemonic i ≠ "UNPACK565") (hdecomp : mnemonic i ≠ "DECOMP") {s : State}
    (hf : s.fsr.f = false) : ∃ r : Response, exec i s = .next (respond s r) ∧ r.st = some .ok := by
  cases i with
  | pack565 b l c => exact ⟨_, exec_pack565 hf b l c, rfl⟩
  | idxpack b l c => exact ⟨_, exec_idxpack hf b l c, rfl⟩
  | idxunpack b l c => exact ⟨_, exec_idxunpack hf b l c, rfl⟩
  | wrblk b l c => exact ⟨_, exec_wrblk hf b l c, rfl⟩
  | write3 b l c => exact ⟨_, exec_write3 hf b l c, rfl⟩
  | write4 b l c => exact ⟨_, exec_write4 hf b l c, rfl⟩
  | palette b l c => exact ⟨_, exec_palette hf b l c, rfl⟩
  | unpack565 => exact absurd rfl hunpack
  | decomp => exact absurd rfl hdecomp

/-- Settles O48: a response leaves FSR alone. -/
theorem onlyContractChecksFault : Obligations.OnlyContractChecksFault := by
  intro s i hf hunpack hdecomp
  obtain ⟨r, hr, hok⟩ := exec_unchecked hunpack hdecomp hf
  exact ⟨_, hr, hok, rfl⟩

/-! ## One step -/

theorem step_feedBlk_latched {s : State} {hdr : Header} {es : List HostEvent} (h : s.host = .feedBlk hdr :: es)
    (hf : s.fsr.f = true) : step s = .next (refuse (sample s (fedCommand s hdr) es)) := by
  rw [step_feedBlk h]
  exact transact_of_latched (s := sample s (fedCommand s hdr) es) hf

/-- Settles O7: a latched core refuses at the start of the transaction, and each operation refuses by itself. -/
theorem latchedCoreRefusesEveryCommand : Obligations.LatchedCoreRefusesEveryCommand := by
  refine ⟨fun s c rest hf hh => ?_, fun s hdr rest hf hh => ⟨s.rsp.oblk.getD s.cmd.ops.blk, ?_⟩, fun s i hf => ?_⟩
  · rw [step_command_latched hh hf, refuse_eq]
    rfl
  · rw [step_feedBlk_latched hh hf, refuse_eq]
    rfl
  · rw [exec_of_latched hf, refuse_eq]

/-- No step stops the machine (70_reset_and_hazards.md R217). -/
theorem step_answers_next (s : State) : ∃ t, step s = .next t := by
  cases hh : s.host with
  | nil => exact ⟨_, step_idle hh⟩
  | cons e es =>
    cases e with
    | command c => exact (step_command hh).symm ▸ transact_answers_next _
    | feedBlk hdr => exact (step_feedBlk hh).symm ▸ transact_answers_next _
    | reset => exact ⟨_, step_reset hh⟩
    | resetDuring c =>
      obtain ⟨u, hu⟩ := transact_answers_next (sample s c es)
      exact ⟨_, step_resetDuring hh hu⟩

/-- A transaction leaves what the host does next alone. -/
theorem transact_host {s t : State} (ht : transact s = .next t) : t.host = s.host := by
  obtain ⟨-, h⟩ | ⟨-, c, -, h⟩ | ⟨-, r, -, h⟩ := transact_cases s <;> cases h.symm.trans ht <;> rfl

/-! ## Steps and runs while the host asserts no reset -/

section NoReset

variable {s t : State} (hn : ∀ e ∈ s.host, assertsReset e = false)
include hn

/-- Without reset a step does nothing or is one transaction, with the rest of the host's list ahead. -/
theorem step_cases_of_noReset (h : step s = .next t) :
    t = s ∨ ∃ c es, (∀ e ∈ es, assertsReset e = false) ∧ transact (sample s c es) = .next t := by
  obtain ⟨-, ht⟩ | ⟨e, es, c, hh, -, ht⟩ | ⟨e, es, hh, he, -, -⟩ := step_cases h
  · exact .inl ht
  · exact .inr ⟨c, es, fun e' he' => hn e' (hh ▸ List.mem_cons_of_mem e he'), ht⟩
  · exact absurd (hn e (hh ▸ List.mem_cons_self)) (by simp [he])

theorem step_keeps_noReset (h : step s = .next t) : ∀ e ∈ t.host, assertsReset e = false := by
  obtain rfl | ⟨c, es, hes, ht⟩ := step_cases_of_noReset hn h
  · exact hn
  · rwa [transact_host ht]

/-- Without reset a step from a latched state keeps FSR and issues no sink write (R187). -/
theorem step_of_latched (hf : s.fsr.f = true) (h : step s = .next t) : t.fsr = s.fsr ∧ t.sunk = s.sunk := by
  obtain rfl | ⟨c, es, -, ht⟩ := step_cases_of_noReset hn h
  · exact ⟨rfl, rfl⟩
  · cases (transact_of_latched (s := sample s c es) hf).symm.trans ht
    exact ⟨rfl, refuse_sunk _⟩

end NoReset

/-- Settles O17, by induction on the number of steps. -/
theorem latchHoldsUntilReset : Obligations.LatchHoldsUntilReset := by
  intro n
  induction n with
  | zero => exact fun s _ _ => ⟨s, run_zero s, rfl, rfl⟩
  | succ n ih =>
    intro s hf hn
    obtain ⟨u, hu⟩ := step_answers_next s
    obtain ⟨hfsr, hsunk⟩ := step_of_latched hn hf hu
    obtain ⟨t, hrun, htfsr, htsunk⟩ := ih u (hfsr ▸ hf) (step_keeps_noReset hn hu)
    exact ⟨t, (run_succ hu n).trans hrun, htfsr.trans hfsr, htsunk.trans hsunk⟩

/-- A run without reset that ends with a clear latch began with one: the latch would have held. -/
theorem clear_of_run_clear {n : Nat} {s t : State} (hn : ∀ e ∈ s.host, assertsReset e = false)
    (hrun : Host.Core.run Sys2Proof.core n s = .next t) (ht : t.fsr.f = false) : s.fsr.f = false := by
  by_contra hs
  obtain ⟨t', hrun', hfsr, -⟩ := latchHoldsUntilReset n s (Bool.eq_true_of_not_eq_false hs) hn
  cases hrun'.symm.trans hrun
  exact hs (hfsr ▸ ht)

/-- Settles O18, by induction on the number of steps taken: from each state on the way the rest of the run ends clear. -/
theorem servedRunNeverFaulted : Obligations.ServedRunNeverFaulted := by
  rintro n s t hn hrun ⟨-, hclear⟩ k hk
  induction k generalizing n s with
  | zero => exact ⟨s, run_zero s, clear_of_run_clear hn hrun hclear⟩
  | succ k ih =>
    obtain ⟨m, rfl⟩ := Nat.exists_eq_add_one_of_ne_zero (Nat.ne_zero_of_lt hk)
    obtain ⟨u, hu⟩ := step_answers_next s
    obtain ⟨v, hv, hvclear⟩ :=
      ih m u (step_keeps_noReset hn hu) ((run_succ hu m).symm.trans hrun) (Nat.le_of_succ_le_succ hk)
    exact ⟨v, (run_succ hu k).trans hv, hvclear⟩

end Sys2Proof.Machine

/-!
SUPPORT. Reset between and during transactions, and the answer to every command (spec 70_reset_and_hazards.md R210, R211,
R217).
-/
namespace Sys2Proof.Machine

/-! ## Reset -/

/-- Settles O15: the writes issued are the first of those the same command delivers when it is not abandoned. -/
theorem resetDuringTransactionIssuesAPrefix : Obligations.ResetDuringTransactionIssuesAPrefix := by
  intro s c rest hh
  obtain ⟨u, hu⟩ := transact_answers_next (sample s c rest)
  exact ⟨_, u, _, step_resetDuring hh hu, (step_command rfl).trans hu, rfl, noResult_status none, fsrWord_cleared,
    List.take_prefix _ _, rfl⟩

/-- Settles O14: the effect of reset is on FSR and the result ports alone. -/
theorem resetClearsFsr : Obligations.ResetClearsFsr := fun _ _ hh =>
  ⟨_, step_reset hh, fsrWord_cleared, rfl, rfl, rfl, rfl⟩

/-! ## The answer to a command -/

/-- A transaction leaves the sampled ports alone. -/
theorem transact_cmd {s t : State} (ht : transact s = .next t) : t.cmd = s.cmd := by
  obtain ⟨-, h⟩ | ⟨-, c, -, h⟩ | ⟨-, r, -, h⟩ := transact_cases s <;> cases h.symm.trans ht <;> rfl

/-- A transaction drives a status: `REFUSED`, `FAULT` or `OK`. -/
theorem transact_drives_status {s t : State} (ht : transact s = .next t) : t.rsp.st ≠ none := by
  obtain ⟨-, h⟩ | ⟨-, c, -, h⟩ | ⟨-, r, hok, h⟩ := transact_cases s <;> cases h.symm.trans ht
  · simp
  · simp
  · simp [hok]

/-- Settles O9: a step on a presented command is the transaction on the sampled ports, which always answers. -/
theorem everyCommandIsAnswered : Obligations.EveryCommandIsAnswered := by
  refine ⟨step_answers_next, fun s c rest hh => ?_⟩
  obtain ⟨t, ht⟩ := transact_answers_next (sample s c rest)
  exact ⟨t, (step_command hh).trans ht, transact_drives_status ht, transact_cmd ht, transact_host ht⟩

end Sys2Proof.Machine
